-- ==== Sys2Proof/Word.lean ====
section
/-! DEFINITION. The word types: a byte, and the 128-bit request word (spec 30_encoding.md R70). -/
namespace Sys2Proof

/-- A byte, `b[7:0]` (00_scope.md R11). -/
abbrev Byte := BitVec 8

/-- A request word: exactly 128 bits (30_encoding.md R70). -/
abbrev RequestWord := BitVec 128

end Sys2Proof
end

