-- ==== Sys2Proof/Config.lean ====
section
/-! DEFINITION. The fixed parameters of this instance (00_scope.md R8) and the open parameters and free values (00_scope.md R9). An `opaque` constant has no body: a claim that mentions it holds for every value of it. -/
namespace Sys2Proof

/-- Panel width in pixels (R8). -/
@[simp] abbrev Config.W : Nat := 128
/-- Panel height in pixels (R8). -/
@[simp] abbrev Config.H : Nat := 64
/-- Page count, `H / 8` (R8, R10). -/
@[simp] abbrev Config.P : Nat := 8
/-- Frame-buffer length in bytes, `W * P` (R8, R10). -/
@[simp] abbrev Config.N : Nat := 1024
/-- Bus device address of the controller (R8). -/
@[simp] abbrev Config.devAddr : Byte := 0x3C#8
/-- Command register address (R8). -/
@[simp] abbrev Config.regCmd : Byte := 0x00#8
/-- Data register address (R8). -/
@[simp] abbrev Config.regData : Byte := 0x40#8
/-- Glyph columns (R8). -/
@[simp] abbrev Config.glyphCols : Nat := 5
/-- Glyph rows (R8). -/
@[simp] abbrev Config.glyphRows : Nat := 8
/-- The x advance of one string character (R8). -/
@[simp] abbrev Config.charAdv : Nat := 6
/-- The least drawable character code (R8). -/
@[simp] abbrev Config.chMin : Nat := 32
/-- The greatest drawable character code (R8). -/
@[simp] abbrev Config.chMax : Nat := 127
/-- The contrast shadow before INIT (R8; 90_conflicts.md C1). -/
@[simp] abbrev Config.contrastReset : Byte := 0x7F#8
/-- The contrast INIT sends (R8; 90_conflicts.md C1). -/
@[simp] abbrev Config.initContrast : Byte := 0x10#8

/-- Open parameter FB_RESET (R9, 10_state.md R24): the byte drawn at reset number `n` for index `i`. Free value, log entry 6. -/
opaque Config.fbReset (n i : Nat) : Byte

/-- The contents of REQ after reset number `n`, unspecified (10_state.md R22; 93 U2). Free value, log entry 7. -/
opaque Config.reqReset (n : Nat) : RequestWord

/-- Open parameter SRCMEM (R9): what an address reads as that the host has not written. Free value, log entry 8. -/
opaque Config.srcMem (a : Nat) : Byte

/-- Open parameter GLYPH (R9): column `c` of the glyph of code `ch`, before the host changes it. Free value, log entry 9. -/
opaque Config.glyph (ch c : Nat) : Byte

/-- Open parameter TRANSPORT (R9): whether bus write number `n` is answered `ok`. Free value, log entry 5. -/
opaque Config.transportAccepts (n : Nat) : Bool

/-- Which of the admissible bytes FILLDISPLAY sends (R9, D21). Free value, log entry 10. -/
opaque Config.fillDisplayChoice : Nat

/-- Which of the admissible bytes CLEARDISPLAY sends (R9, D21). Free value, log entry 10. -/
opaque Config.clearDisplayChoice : Nat

/-- Open parameter P_SETTLE (R9, 43_device_protocol.md R178): a duration no rule depends on. The model has no time, so nothing reads it. Log entry 11. -/
opaque Config.settle : Nat

end Sys2Proof
end

