-- ==== Sys2Proof/Syntax.lean ====
section
/-! DEFINITION. The instructions: one constructor for each row of spec/opcode_table.json, with the operands of 30_encoding.md R72 (requests) and R79 (controller commands). -/
namespace Sys2Proof

/-- One row of the opcode table with its operands. Coordinates are exact integers (R72, R12), source addresses 32-bit words (20_memory.md R52). -/
inductive Instr where
  -- rasterizer requests (30_encoding.md R75)
  | setPixel (x y : Int) (color : Byte)
  | drawLine (x0 y0 x1 y1 : Int)
  | drawChar (x y : Int) (ch : Byte)
  | drawString (x y : Int) (src : BitVec 32) (len : Nat)
  | drawBitmap (x y : Int) (src : BitVec 32) (w h : Nat)
  | fillFb
  | clearFb
  -- device-protocol requests (R75)
  | init
  | display
  | setBrightness (level : Byte)
  | fillDisplay
  | clearDisplay
  -- controller commands (R79)
  | displayOff
  | displayOn
  | setMemoryAddressingMode (m : Byte)
  | setContrast (v : Byte)
  | setSegmentRemap
  | setMultiplexRatio (v : Byte)
  | setComScanRemapped
  | setDisplayOffset (v : Byte)
  | setComPins (v : Byte)
  | setClockDivide (v : Byte)
  | setPrechargePeriod (v : Byte)
  | setVcomhDeselect (v : Byte)
  | resumeFromRam
  | normalDisplay
  | setColumnAddress (first last : Byte)
  | setPageAddress (first last : Byte)
  | forceEntireOn
  | forceEntireOff
  -- a byte written to the data register (44_controller_receiver.md R218)
  | dataByte (v : Byte)
  deriving DecidableEq, Repr

/-- The words an instruction is read from: a request word at the request port (R70), the bytes of one command at the command register (R81), or one byte at the data register (R78). -/
inductive Words where
  | request (w : RequestWord)
  | command (bytes : List Byte)
  | data (v : Byte)
  deriving DecidableEq, Repr

/-- Why the decoder reads no instruction. -/
inductive Reject where
  /-- A request word with a bit of `RSV` set (R76). -/
  | reservedBits
  /-- A request word with an unassigned `OP` (R76). -/
  | illegalOpcode
  /-- Command bytes whose first byte is outside the table of R79 (44_controller_receiver.md R213). -/
  | unknownCommand
  /-- Command bytes that are not a whole command: no byte at all, or too few or too many operand bytes (R81). -/
  | wrongOperandCount
  deriving DecidableEq, Repr

/-- What the decoder answers. -/
inductive Decoded where
  | instr (i : Instr)
  | reject (r : Reject)
  deriving DecidableEq, Repr

/-- A controller command by the number of operand bytes that follow its first byte (R79). -/
inductive CommandShape where
  | op0 (i : Instr)
  | op1 (f : Byte → Instr)
  | op2 (f : Byte → Byte → Instr)

/-- The seven rasterizer requests (40_raster_pixel.md R100). -/
def Instr.isRaster : Instr → Bool
  | .setPixel .. | .drawLine .. | .drawChar .. | .drawString .. | .drawBitmap .. | .fillFb | .clearFb => true
  | _ => false

/-- The five device-protocol requests (00_scope.md R5). -/
def Instr.isDevice : Instr → Bool
  | .init | .display | .setBrightness _ | .fillDisplay | .clearDisplay => true
  | _ => false

/-- The twelve requests (30_encoding.md R75). -/
def Instr.isRequest (i : Instr) : Bool := i.isRaster || i.isDevice

end Sys2Proof
end

