-- ==== Sys2Proof/WellFormed.lean ====
section
/-! DEFINITION. Which instructions an encoding exists for: the operand ranges of 30_encoding.md R74. -/
namespace Sys2Proof

/-- A coordinate lies in `-32768 .. 32767` (R74). -/
def coordOk (x : Int) : Bool := decide (-32768 ≤ x) && decide (x ≤ 32767)

/-- A length or a bitmap dimension lies in `0 .. 65535` (R74). -/
def dimOk (n : Nat) : Bool := decide (n < 65536)

/-- Every operand is in its range (R74). Bytes and the source address are so by their type. -/
def Instr.wellFormed : Instr → Bool
  | .setPixel x y _ => coordOk x && coordOk y
  | .drawLine x0 y0 x1 y1 => coordOk x0 && coordOk y0 && (coordOk x1 && coordOk y1)
  | .drawChar x y _ => coordOk x && coordOk y
  | .drawString x y _ len => coordOk x && coordOk y && dimOk len
  | .drawBitmap x y _ w h => coordOk x && coordOk y && (dimOk w && dimOk h)
  | .fillFb | .clearFb => true
  | .init | .display | .setBrightness _ | .fillDisplay | .clearDisplay => true
  | .displayOff | .displayOn | .setMemoryAddressingMode _ | .setContrast _ => true
  | .setSegmentRemap | .setMultiplexRatio _ | .setComScanRemapped | .setDisplayOffset _ => true
  | .setComPins _ | .setClockDivide _ | .setPrechargePeriod _ | .setVcomhDeselect _ => true
  | .resumeFromRam | .normalDisplay | .setColumnAddress _ _ | .setPageAddress _ _ => true
  | .forceEntireOn | .forceEntireOff | .dataByte _ => true

/-- The well-formed instructions. -/
abbrev WellFormed (i : Instr) : Prop := i.wellFormed = true

end Sys2Proof
end

