-- ==== Sys2Proof/Decode.lean ====
section
/-! DEFINITION. Decoding, total on any words and rejecting by name (30_encoding.md R71 to R76, R79 to R81), and after it the encoder written from the same tables. -/
namespace Sys2Proof

/-! ### The fields of a request word (R71) -/

/-- `OP`, bits [7:0]. -/
def reqOp (w : RequestWord) : Byte := w.extractLsb' 0 8
/-- `K`, bits [15:8]. -/
def reqK (w : RequestWord) : Byte := w.extractLsb' 8 8
/-- `A`, bits [31:16]. -/
def reqA (w : RequestWord) : BitVec 16 := w.extractLsb' 16 16
/-- `B`, bits [47:32]. -/
def reqB (w : RequestWord) : BitVec 16 := w.extractLsb' 32 16
/-- `C`, bits [63:48]. -/
def reqC (w : RequestWord) : BitVec 16 := w.extractLsb' 48 16
/-- `D`, bits [79:64]. -/
def reqD (w : RequestWord) : BitVec 16 := w.extractLsb' 64 16
/-- `S`, bits [111:80]. -/
def reqS (w : RequestWord) : BitVec 32 := w.extractLsb' 80 32
/-- `RSV`, bits [127:112]. -/
def reqRsv (w : RequestWord) : BitVec 16 := w.extractLsb' 112 16

/-- `sext_16` (00_scope.md R12). -/
def sext16 (v : BitVec 16) : Int := v.toInt

/-- `zext_16` (00_scope.md R12). -/
def zext16 (v : BitVec 16) : Nat := v.toNat

/-- Decode of a request word (R73), the operands assembled as R72 says; fields an operation does not use are not looked at. -/
def decodeRequest (w : RequestWord) : Decoded :=
  if reqRsv w ≠ 0#16 then .reject .reservedBits
  else if reqOp w = 0x01#8 then .instr (.setPixel (sext16 (reqA w)) (sext16 (reqB w)) (reqK w))
  else if reqOp w = 0x02#8 then .instr (.drawLine (sext16 (reqA w)) (sext16 (reqB w)) (sext16 (reqC w)) (sext16 (reqD w)))
  else if reqOp w = 0x03#8 then .instr (.drawChar (sext16 (reqA w)) (sext16 (reqB w)) (reqK w))
  else if reqOp w = 0x04#8 then .instr (.drawString (sext16 (reqA w)) (sext16 (reqB w)) (reqS w) (zext16 (reqC w)))
  else if reqOp w = 0x05#8 then .instr (.drawBitmap (sext16 (reqA w)) (sext16 (reqB w)) (reqS w) (zext16 (reqC w)) (zext16 (reqD w)))
  else if reqOp w = 0x06#8 then .instr .fillFb
  else if reqOp w = 0x07#8 then .instr .clearFb
  else if reqOp w = 0x10#8 then .instr .init
  else if reqOp w = 0x11#8 then .instr .display
  else if reqOp w = 0x12#8 then .instr (.setBrightness (reqK w))
  else if reqOp w = 0x13#8 then .instr .fillDisplay
  else if reqOp w = 0x14#8 then .instr .clearDisplay
  else .reject .illegalOpcode

/-! ### Controller commands (R79, R80) -/

/-- The sixteen rows of R79 the spec gives a first byte for, with their operands. -/
def fixedTable : List (Byte × CommandShape) :=
  [(0xAE#8, .op0 .displayOff),
   (0x20#8, .op1 .setMemoryAddressingMode),
   (0x81#8, .op1 .setContrast),
   (0xA1#8, .op0 .setSegmentRemap),
   (0xA8#8, .op1 .setMultiplexRatio),
   (0xC8#8, .op0 .setComScanRemapped),
   (0xD3#8, .op1 .setDisplayOffset),
   (0xD5#8, .op1 .setClockDivide),
   (0xD9#8, .op1 .setPrechargePeriod),
   (0xDA#8, .op1 .setComPins),
   (0xDB#8, .op1 .setVcomhDeselect),
   (0xA4#8, .op0 .resumeFromRam),
   (0xA6#8, .op0 .normalDisplay),
   (0xAF#8, .op0 .displayOn),
   (0x21#8, .op2 .setColumnAddress),
   (0x22#8, .op2 .setPageAddress)]

/-- The row of a fixed first byte. -/
def fixedShape (b : Byte) : Option CommandShape := fixedTable.lookup b

/-- The bytes that are no fixed first byte: those the two open command bytes may be (D21; 44_controller_receiver.md R223). -/
def freeFirstBytes : List Byte := ((List.range 256).map (BitVec.ofNat 8)).filter (fun b => (fixedShape b).isNone)

/-- Open parameter P_FILL_DISPLAY_CMD: any byte distinct from the fixed first bytes (00_scope.md R9; D21). Log entry 10. -/
def pFillDisplayCmd : Byte := freeFirstBytes.getD (Config.fillDisplayChoice % freeFirstBytes.length) 0#8

/-- Open parameter P_CLEAR_DISPLAY_CMD: any byte distinct from the fixed first bytes and from P_FILL_DISPLAY_CMD (00_scope.md R9; D21). Log entry 10. -/
def pClearDisplayCmd : Byte :=
  (freeFirstBytes.erase pFillDisplayCmd).getD (Config.clearDisplayChoice % (freeFirstBytes.erase pFillDisplayCmd).length) 0#8

/-- The whole table of R79: the fixed first bytes, then the two open ones, which take no operand (R81). -/
def commandShape (b : Byte) : Option CommandShape :=
  match fixedShape b with
  | some sh => some sh
  | none =>
    if b = pFillDisplayCmd then some (.op0 .forceEntireOn)
    else if b = pClearDisplayCmd then some (.op0 .forceEntireOff)
    else none

/-- How many operand bytes a shape takes. -/
def CommandShape.operands : CommandShape → Nat
  | .op0 _ => 0
  | .op1 _ => 1
  | .op2 _ => 2

/-- The operand count of a first byte (R79, R81); none for a byte outside the table. -/
def operandCount (b : Byte) : Option Nat := (commandShape b).map CommandShape.operands

/-- A shape applied to exactly its operand bytes. -/
def CommandShape.build : CommandShape → List Byte → Decoded
  | .op0 i, [] => .instr i
  | .op1 f, [v] => .instr (f v)
  | .op2 f, [v, u] => .instr (f v u)
  | _, _ => .reject .wrongOperandCount

/-- Decode of the bytes of one command (R81). -/
def decodeCommand : List Byte → Decoded
  | [] => .reject .wrongOperandCount
  | b :: ops =>
    match commandShape b with
    | some sh => sh.build ops
    | none => .reject .unknownCommand

/-- The decoder. -/
def decode : Words → Decoded
  | .request w => decodeRequest w
  | .command bytes => decodeCommand bytes
  | .data v => .instr (.dataByte v)

/-- The instruction, where there is one. -/
def Decoded.toOption : Decoded → Option Instr
  | .instr i => some i
  | .reject _ => none

/-! ### The encoder -/

/-- A request word from its fields, `RSV` zero (R71, R82). -/
def packRequest (op k : Byte) (a b c d : BitVec 16) (s : BitVec 32) : RequestWord :=
  0#16 ++ s ++ d ++ c ++ b ++ a ++ k ++ op

/-- A coordinate as its 16-bit field. -/
def coordField (x : Int) : BitVec 16 := BitVec.ofInt 16 x

/-- A length or dimension as its 16-bit field. -/
def dimField (n : Nat) : BitVec 16 := BitVec.ofNat 16 n

/-- The words of a well-formed instruction, unused fields zero (R72, R79, R82). -/
def encode : Instr → Words
  | .setPixel x y color => .request (packRequest 0x01 color (coordField x) (coordField y) 0 0 0)
  | .drawLine x0 y0 x1 y1 => .request (packRequest 0x02 0 (coordField x0) (coordField y0) (coordField x1) (coordField y1) 0)
  | .drawChar x y ch => .request (packRequest 0x03 ch (coordField x) (coordField y) 0 0 0)
  | .drawString x y src len => .request (packRequest 0x04 0 (coordField x) (coordField y) (dimField len) 0 src)
  | .drawBitmap x y src w h => .request (packRequest 0x05 0 (coordField x) (coordField y) (dimField w) (dimField h) src)
  | .fillFb => .request (packRequest 0x06 0 0 0 0 0 0)
  | .clearFb => .request (packRequest 0x07 0 0 0 0 0 0)
  | .init => .request (packRequest 0x10 0 0 0 0 0 0)
  | .display => .request (packRequest 0x11 0 0 0 0 0 0)
  | .setBrightness level => .request (packRequest 0x12 level 0 0 0 0 0)
  | .fillDisplay => .request (packRequest 0x13 0 0 0 0 0 0)
  | .clearDisplay => .request (packRequest 0x14 0 0 0 0 0 0)
  | .displayOff => .command [0xAE#8]
  | .displayOn => .command [0xAF#8]
  | .setMemoryAddressingMode m => .command [0x20#8, m]
  | .setContrast v => .command [0x81#8, v]
  | .setSegmentRemap => .command [0xA1#8]
  | .setMultiplexRatio v => .command [0xA8#8, v]
  | .setComScanRemapped => .command [0xC8#8]
  | .setDisplayOffset v => .command [0xD3#8, v]
  | .setComPins v => .command [0xDA#8, v]
  | .setClockDivide v => .command [0xD5#8, v]
  | .setPrechargePeriod v => .command [0xD9#8, v]
  | .setVcomhDeselect v => .command [0xDB#8, v]
  | .resumeFromRam => .command [0xA4#8]
  | .normalDisplay => .command [0xA6#8]
  | .setColumnAddress first last => .command [0x21#8, first, last]
  | .setPageAddress first last => .command [0x22#8, first, last]
  | .forceEntireOn => .command [pFillDisplayCmd]
  | .forceEntireOff => .command [pClearDisplayCmd]
  | .dataByte v => .data v

/-! ### Words as spec/opcode_table.json numbers them -/

/-- The byte of `w` at byte position `k`. -/
def tableByte (w k : Nat) : Byte := BitVec.ofNat 8 (w >>> (8 * k))

/-- The words that a table row's bits stand for. A row of 128 bits is a request word. A row of bytes starts with its lowest byte; it is a command when that byte is one of the sixteen fixed first bytes (its operand bytes follow), and a data-register byte otherwise: the table's bits do not say which register a byte is written to, and its DataByte row matches every byte. DESIGN CHOICE, log entry 17. -/
def tableWords (nbits w : Nat) : Words :=
  if nbits = 128 then .request (BitVec.ofNat 128 w)
  else
    match fixedShape (tableByte w 0) with
    | some (.op0 _) => .command [tableByte w 0]
    | some (.op1 _) => .command [tableByte w 0, tableByte w 1]
    | some (.op2 _) => .command [tableByte w 0, tableByte w 1, tableByte w 2]
    | none => .data (tableByte w 0)

/-- The instruction the decoder reads from a table row's bits. -/
def decodeTableWord (nbits w : Nat) : Option Instr := (decode (tableWords nbits w)).toOption

end Sys2Proof
end

