-- ==== Sys2Proof/Machine/State.lean ====
section
/-! DEFINITION. The state of the machine (10_state.md R20, 44_controller_receiver.md R211) as plain data, the reasons a step could stop, and the state after reset (70_reset_and_hazards.md R271). -/
namespace Sys2Proof.Machine

/-- A value or the spec's UNKNOWN: "A value the model does not know. Reading it gives no information." (00_scope.md R16). Log entry 12. -/
inductive Known (α : Type) where
  | unknown
  | known (v : α)
  deriving DecidableEq, Repr

/-- PSTATE (10_state.md R25). -/
inductive PState where
  | uninit
  | active
  deriving DecidableEq, Repr

/-- The addressing mode, of ADDR_MODE (10_state.md R27) and of the controller's MODE (44 R211): the only one the spec names. -/
inductive AddrMode where
  | horizontal
  deriving DecidableEq, Repr

/-- POWER (10_state.md R27) and the controller's DISP_ON (44 R211). -/
inductive OnOff where
  | on
  | off
  deriving DecidableEq, Repr

/-- DISP_SRC (10_state.md R27). -/
inductive DispSrc where
  | buffer
  | forcedOn
  | forcedOff
  deriving DecidableEq, Repr

/-- The device-protocol requests, the `op` of `BUSY(op, k)` (10_state.md R21). -/
inductive DeviceOp where
  | init
  | display
  | setBrightness
  | fillDisplay
  | clearDisplay
  deriving DecidableEq, Repr

/-- SEQ (10_state.md R21): `k` is the index of the next bus transaction. -/
inductive Seq where
  | idle
  | busy (op : DeviceOp) (k : Nat)
  deriving DecidableEq, Repr

/-- The two registers of the one device on the bus (20_memory.md R54). -/
inductive BusReg where
  | command
  | data
  deriving DecidableEq, Repr

/-- The transport's answer to a bus write (43_device_protocol.md R170). -/
inductive Answer where
  | ok
  | fail
  deriving DecidableEq, Repr

/-- A transaction to emit, `(reg, byte)` (43 R171). -/
structure BusByte where
  reg : BusReg
  byte : Byte
  deriving DecidableEq, Repr

/-- A transaction with its answer, an entry of TRACE (10_state.md R29). -/
structure Txn where
  reg : BusReg
  byte : Byte
  answer : Answer
  deriving DecidableEq, Repr

/-- A glyph: five column bytes (20_memory.md R53). -/
structure Glyph where
  c0 : Byte
  c1 : Byte
  c2 : Byte
  c3 : Byte
  c4 : Byte
  deriving DecidableEq, Repr

/-- The controller's ENTIRE (44 R211). -/
inductive Entire where
  | ram
  | forcedOn
  | forcedOff
  deriving DecidableEq, Repr

/-- The controller's INVERT (44 R211): the only setting the spec names. -/
inductive Invert where
  | normal
  deriving DecidableEq, Repr

/-- The controller's SEG_REMAP and COM_REMAP (44 R211). -/
inductive Remap where
  | set
  deriving DecidableEq, Repr

/-- The controller's command parser (44 R212): `need op n got` waits until `got` has `n` operand bytes of `op`. The value `unknown` is taken in LOST only, where "every other field is UNKNOWN" (44 R213; log entry 13). -/
inductive Parser where
  | idle
  | need (op : Byte) (n : Nat) (got : List Byte)
  | unknown
  deriving DecidableEq, Repr

/-- The controller's state (44 R211). `ram` holds page `p`, column `c` at index `p * 128 + c`. -/
structure Controller where
  ram : List (Known Byte)
  col : Known Nat
  page : Known Nat
  cs : Known Nat
  ce : Known Nat
  ps : Known Nat
  pe : Known Nat
  mode : Known AddrMode
  contrast : Known Byte
  dispOn : Known OnOff
  entire : Known Entire
  invert : Known Invert
  segRemap : Known Remap
  comRemap : Known Remap
  mux : Known Byte
  offset : Known Byte
  compins : Known Byte
  clkdiv : Known Byte
  precharge : Known Byte
  vcomh : Known Byte
  parser : Parser
  lost : Bool
  deriving DecidableEq, Repr

/-- The controller at power-up: every field UNKNOWN, the parser idle, not LOST (44 R224). -/
def Controller.powerUp : Controller where
  ram := List.replicate 1024 .unknown
  col := .unknown
  page := .unknown
  cs := .unknown
  ce := .unknown
  ps := .unknown
  pe := .unknown
  mode := .unknown
  contrast := .unknown
  dispOn := .unknown
  entire := .unknown
  invert := .unknown
  segRemap := .unknown
  comRemap := .unknown
  mux := .unknown
  offset := .unknown
  compins := .unknown
  clkdiv := .unknown
  precharge := .unknown
  vcomh := .unknown
  parser := .idle
  lost := false

/-- The machine's state. -/
structure State where
  /-- FB, byte `i` at index `i` (10_state.md R23). -/
  fb : List Byte
  /-- SEQ (R21). -/
  seq : Seq
  /-- REQ (R22). -/
  req : RequestWord
  /-- STATUS (R26). -/
  status : BitVec 32
  /-- PSTATE (R25). -/
  pstate : PState
  /-- Shadow CONTRAST (R27). -/
  contrast : Known Byte
  /-- Shadow ADDR_MODE (R27). -/
  addrMode : Known AddrMode
  /-- Shadow POWER (R27). -/
  power : Known OnOff
  /-- Shadow DISP_SRC (R27). -/
  dispSrc : Known DispSrc
  /-- TRACE, oldest first (R29). -/
  trace : List Txn
  /-- Request words the host presents and the port has not accepted, oldest first (R22; 70 R277). -/
  port : List RequestWord
  /-- GLYPH: the glyph of code `ch` at index `ch - 32` (00_scope.md R9). -/
  glyph : List Glyph
  /-- SRCMEM: the bytes that differ from the open parameter, by address (20_memory.md R52; log entry 8). -/
  mem : List Host.Cell
  /-- Transport answers already settled, next first (43 R170; log entry 5). -/
  answers : List Answer
  /-- Bus writes so far: the argument of the free answer (log entry 5). -/
  draws : Nat
  /-- Resets so far: the argument of the reset draws (log entry 6). -/
  resets : Nat
  /-- Answered transactions the controller has not yet received, oldest first (44 R210; log entry 2). -/
  inbox : List Txn
  /-- The controller (44 R211). -/
  ctl : Controller
  deriving DecidableEq, Repr

/-- The reasons a step could stop with a fault: none. WPS-FBR has no traps; every condition it reports ends a request with a code in STATUS (60_exceptions.md R240, R247), so no step raises a fault. -/
inductive Fault where
  deriving DecidableEq, Repr

/-- The reasons a step could be refused. -/
inductive Refusal where
  /-- An instruction without a meaning, raised by `exec` alone. Safe: the machine stops where the hardware goes on. No arm of `exec` raises it now. -/
  | notModelled (mnemonic : String)
  deriving DecidableEq, Repr

/-- FB at reset number `n`: the draw FB_RESET (10_state.md R24; log entry 6). -/
def fbResetDraw (n : Nat) : List Byte := (List.range 1024).map (Config.fbReset n)

/-- The glyph of code `ch` before the host changes it: the open parameter GLYPH (log entry 9). -/
def glyphDraw (ch : Nat) : Glyph where
  c0 := Config.glyph ch 0
  c1 := Config.glyph ch 1
  c2 := Config.glyph ch 2
  c3 := Config.glyph ch 3
  c4 := Config.glyph ch 4

/-- The machine right after its first reset (70_reset_and_hazards.md R271), nothing presented. -/
def State.reset : State where
  fb := fbResetDraw 0
  seq := .idle
  req := Config.reqReset 0
  status := 0#32
  pstate := .uninit
  contrast := .known Config.contrastReset
  addrMode := .unknown
  power := .unknown
  dispSrc := .unknown
  trace := []
  port := []
  glyph := (List.range 96).map (fun k => glyphDraw (k + 32))
  mem := []
  answers := []
  draws := 0
  resets := 0
  inbox := []
  ctl := Controller.powerUp

end Sys2Proof.Machine
end

