-- ==== Sys2Proof/Machine/Flags.lean ====
section
/-! DEFINITION. STATUS: its fields and completion codes (10_state.md R26; 60_exceptions.md R240, R241). WPS-FBR has no flags or condition codes (10_state.md R30). -/
namespace Sys2Proof.Machine

/-- CODE 0x00 (R240). -/
@[simp] abbrev Status.OK : Byte := 0x00#8
/-- CODE 0x01 (R240). -/
@[simp] abbrev Status.TRANSPORT_FAILURE : Byte := 0x01#8
/-- CODE 0x02 (R240). -/
@[simp] abbrev Status.PROTOCOL_MISUSE : Byte := 0x02#8
/-- CODE 0x03 (R240). -/
@[simp] abbrev Status.ILLEGAL_REQUEST : Byte := 0x03#8

/-- `{INFO, OPC, CODE}`, INFO in the high bits (R241). -/
def Status.pack (info : BitVec 16) (opc code : Byte) : BitVec 32 := info ++ opc ++ code

/-- CODE, bits [7:0] (R26). -/
def Status.code (v : BitVec 32) : Byte := v.extractLsb' 0 8
/-- OPC, bits [15:8] (R26). -/
def Status.opc (v : BitVec 32) : Byte := v.extractLsb' 8 8
/-- INFO, bits [31:16] (R26). -/
def Status.info (v : BitVec 32) : BitVec 16 := v.extractLsb' 16 16

end Sys2Proof.Machine
end

