-- ==== Sys2Proof/Machine/Ops.lean ====
section
/-! DEFINITION. The named operations over memory and registers: source memory, the glyph port, the frame buffer, the completion of a request and the raise, and the bus write. -/
namespace Sys2Proof.Machine

/-! ### Source memory (20_memory.md R52; log entry 8) -/

/-- The listed byte at an address, or the open parameter where none is listed. -/
def Memory.lookup (m : List Host.Cell) (a : Nat) : Byte :=
  match m with
  | [] => Config.srcMem a
  | (k, b) :: rest => if k = a then b else Memory.lookup rest a

/-- `SrcRead(a)`: one byte of SRCMEM; the address is taken modulo 2^32 by its type (00_scope.md R13). -/
def Memory.read (m : List Host.Cell) (a : BitVec 32) : Byte := Memory.lookup m a.toNat

/-- A list of cells without the one of address `a`. -/
def Memory.remove (a : Nat) : List Host.Cell → List Host.Cell
  | [] => []
  | (k, b) :: rest => if k = a then rest else (k, b) :: Memory.remove a rest

/-- A sorted list of cells with `b` at address `a`. -/
def Memory.insert (a : Nat) (b : Byte) : List Host.Cell → List Host.Cell
  | [] => [(a, b)]
  | (k, c) :: rest =>
    if k < a then (k, c) :: Memory.insert a b rest
    else if k = a then (a, b) :: rest
    else (a, b) :: (k, c) :: rest

/-- The host writes one byte of its source memory (70_reset_and_hazards.md R277). Writing what an unlisted address reads as removes the entry. -/
def Memory.write (m : List Host.Cell) (a : BitVec 32) (b : Byte) : List Host.Cell :=
  if b = Config.srcMem a.toNat then Memory.remove a.toNat m else Memory.insert a.toNat b m

/-- The canonical form from address `lo` on: addresses strictly rising and below 2^32, no entry equal to what an unlisted address reads as. -/
def Memory.wfFrom (lo : Nat) : List Host.Cell → Bool
  | [] => true
  | (k, b) :: rest => decide (lo ≤ k) && decide (k < 4294967296) && decide (b ≠ Config.srcMem k) && Memory.wfFrom (k + 1) rest

/-- The canonical form. -/
def Memory.wf (m : List Host.Cell) : Bool := Memory.wfFrom 0 m

/-! ### The glyph port (20_memory.md R53; 42_raster_glyph_bitmap.md R141) -/

/-- `Glyph(ch)` for `32 <= ch <= 127`; the port is asked for no other code. -/
def glyphAt (g : List Glyph) (ch : Byte) : Option Glyph :=
  if Config.chMin ≤ ch.toNat ∧ ch.toNat ≤ Config.chMax then g[ch.toNat - Config.chMin]? else none

/-- The host changes the glyph of a code in `32 .. 127` (70_reset_and_hazards.md R277). -/
def glyphWrite (g : List Glyph) (ch : Byte) (v : Glyph) : List Glyph :=
  if Config.chMin ≤ ch.toNat ∧ ch.toNat ≤ Config.chMax then g.set (ch.toNat - Config.chMin) v else g

/-- Column byte `c` of a glyph. -/
def Glyph.column (g : Glyph) : Nat → Byte
  | 0 => g.c0
  | 1 => g.c1
  | 2 => g.c2
  | 3 => g.c3
  | _ => g.c4

/-! ### The frame buffer (20_memory.md R50, R51; 40_raster_pixel.md R101) -/

/-- A pixel is in panel (R50). -/
abbrev InPanel (x y : Int) : Prop := 0 ≤ x ∧ x < Config.W ∧ 0 ≤ y ∧ y < Config.H

/-- `PixelIndex(x, y)`, for a pixel in panel (R50). -/
def pixelIndex (x y : Int) : Nat := (y / 8 * Config.W + x).toNat

/-- `PixelBit(x, y)` (R50). -/
def pixelBit (y : Int) : Nat := (y % 8).toNat

/-- Frame-buffer byte `i`, `FB[i]` (00_scope.md R13). -/
def Fb.byteAt (fb : List Byte) (i : Nat) : Byte := fb.getD i 0#8

/-- `PixelOf(x, y)` for a pixel in panel (R50). -/
def Fb.pixelOf (fb : List Byte) (x y : Int) : Bool := (Fb.byteAt fb (pixelIndex x y)).getLsbD (pixelBit y)

/-- A byte with bit `b` set or cleared. -/
def setBit (v : Byte) (b : Nat) (c : Bool) : Byte :=
  if c then v ||| (1#8 <<< b) else v &&& ~~~(1#8 <<< b)

/-- `Plot(x, y, c)`, the single bounds-checked pixel write (R101). -/
def Fb.plot (fb : List Byte) (x y : Int) (c : Bool) : List Byte :=
  if InPanel x y then fb.set (pixelIndex x y) (setBit (Fb.byteAt fb (pixelIndex x y)) (pixelBit y) c) else fb

/-- `Plot(x, y, 1)` for each position of a list, in order. -/
def Fb.light (fb : List Byte) (pts : List (Int × Int)) : List Byte :=
  pts.foldl (fun f p => Fb.plot f p.1 p.2 true) fb

/-- Every byte of the frame buffer written with `v` (40_raster_pixel.md R104, R105). -/
def Fb.all (v : Byte) : List Byte := List.replicate Config.N v

/-! ### Completion and raise (10_state.md R26; 60_exceptions.md R241) -/

/-- A request completes: `STATUS <- {info, OPC op, code}` and `SEQ <- IDLE`. -/
def State.complete (s : State) (info : BitVec 16) (op code : Byte) : State :=
  { s with status := Status.pack info op code, seq := .idle }

/-- `raise Status(code, 0)`, the block's one way to report an error before a request has changed anything (60 R241). There is no trap to enter and no return from one (60 R247, R249). -/
def State.raise (s : State) (op code : Byte) : State := s.complete 0#16 op code

/-- A rasterizer request completes with its frame buffer, OK (40_raster_pixel.md R100). -/
def State.finishRaster (s : State) (op : Byte) (fb : List Byte) : State :=
  State.complete { s with fb := fb } 0#16 op Status.OK

/-! ### The bus write (43_device_protocol.md R170) -/

/-- The bus register's address (20_memory.md R54). -/
def BusReg.address : BusReg → Byte
  | .command => Config.regCmd
  | .data => Config.regData

/-- The transaction `(dev, reg, byte)` on the bus (30_encoding.md R77). -/
def BusByte.wire (t : BusByte) : Byte × Byte × Byte := (Config.devAddr, t.reg.address, t.byte)

/-- `Cmd(b)` (R171). -/
def BusByte.cmd (b : Byte) : BusByte := ⟨.command, b⟩

/-- `Data(b)` (R171). -/
def BusByte.dat (b : Byte) : BusByte := ⟨.data, b⟩

/-- A transaction with its answer. -/
def BusByte.answered (t : BusByte) (a : Answer) : Txn := ⟨t.reg, t.byte, a⟩

/-- The answer the transport gives to the next bus write: the next settled one, else a free value (log entry 5). -/
def State.nextAnswer (s : State) : Answer :=
  match s.answers with
  | a :: _ => a
  | [] => if Config.transportAccepts s.draws then .ok else .fail

/-- `BusWrite(reg, b)`: the transaction is emitted, answered and appended to TRACE; the controller has it to receive (44 R210; log entry 2). -/
def State.busWrite (s : State) (t : BusByte) : State :=
  { s with
    trace := s.trace ++ [t.answered s.nextAnswer]
    inbox := s.inbox ++ [t.answered s.nextAnswer]
    answers := s.answers.tail
    draws := s.draws + 1 }

/-! ### The controller -/

/-- LOST: every other field UNKNOWN (44 R213; log entry 13). -/
def Controller.gone : Controller :=
  { Controller.powerUp with parser := .unknown, lost := true }

/-- The controller changes by `f`, unless it is LOST (44 R212, R218: "if LOST then return"). -/
def State.control (s : State) (f : Controller → Controller) : State :=
  if s.ctl.lost then s else { s with ctl := f s.ctl }

end Sys2Proof.Machine
end

