-- ==== Sys2Proof/Machine/Operands.lean ====
section
/-! DEFINITION. The operand forms: the points a line, a glyph, a string and a bitmap cover, with their bit orders (20_memory.md R56), and the operands of the request in progress. -/
namespace Sys2Proof.Machine

/-! ### Lines (41_raster_line.md R120 to R122) -/

/-- One pass of the loop of R120 after its exit test: `(x, y, err)` from `(x, y, err)`. Both comparisons use the one `e2` (R122). -/
def lineStep (dx dy sx sy : Int) (p : Int × Int × Int) : Int × Int × Int :=
  let e2 := 2 * p.2.2
  let q : Int × Int × Int := if e2 > -dy then (p.1 + sx, p.2.1, p.2.2 - dy) else p
  if e2 < dx then (q.1, q.2.1 + sy, q.2.2 + dx) else q

/-- The positions the loop of R120 plots, in order, at most `fuel` of them. -/
def lineWalk (x1 y1 dx dy sx sy : Int) : Nat → Int × Int × Int → List (Int × Int)
  | 0, _ => []
  | fuel + 1, p =>
    (p.1, p.2.1) ::
      (if p.1 = x1 ∧ p.2.1 = y1 then [] else lineWalk x1 y1 dx dy sx sy fuel (lineStep dx dy sx sy p))

/-- The canonical endpoint order swaps (R121). -/
def lineSwaps (x0 y0 x1 y1 : Int) : Bool := decide (x0 > x1) || (decide (x0 = x1) && decide (y0 > y1))

/-- The direction of a coordinate's steps, `+1` or `-1` (R120). -/
def stepSign (a b : Int) : Int := if a < b then 1 else -1

/-- The positions of the line between endpoints already in canonical order. The fuel is `max(dx, dy) + 1`, the count of positions the loop plots before it exits (R123; log entry 16). -/
def linePositionsFrom (x0 y0 x1 y1 : Int) : List (Int × Int) :=
  lineWalk x1 y1 (x1 - x0).natAbs (y1 - y0).natAbs (stepSign x0 x1) (stepSign y0 y1)
    (max (x1 - x0).natAbs (y1 - y0).natAbs + 1) (x0, y0, ((x1 - x0).natAbs : Int) - ((y1 - y0).natAbs : Int))

/-- The positions DRAWLINE plots, in order (R120). -/
def linePositions (x0 y0 x1 y1 : Int) : List (Int × Int) :=
  if lineSwaps x0 y0 x1 y1 then linePositionsFrom x1 y1 x0 y0 else linePositionsFrom x0 y0 x1 y1

/-! ### Glyphs (42_raster_glyph_bitmap.md R140) -/

/-- The points of one glyph at origin `(x, y)`: bit `row` of column `col`, least significant bit at the top. -/
def glyphPoints (g : Glyph) (x y : Int) : List (Int × Int) :=
  (List.range Config.glyphCols).flatMap fun (col : Nat) =>
    (List.range Config.glyphRows).filterMap fun (row : Nat) =>
      if (g.column col).getLsbD row then some (x + (col : Int), y + (row : Int)) else none

/-- The points `DrawGlyph(x, y, ch)` plots: none for a code outside `32 .. 127` (R141). -/
def charPoints (glyphs : List Glyph) (x y : Int) (ch : Byte) : List (Int × Int) :=
  match glyphAt glyphs ch with
  | none => []
  | some g => glyphPoints g x y

/-- The address of byte `j` of the source operand: `(src + j) mod 2^32` (20_memory.md R52). -/
def srcAddr (src : BitVec 32) (j : Nat) : BitVec 32 := src + BitVec.ofNat 32 j

/-- The points of a string: character `k` at `x + 6*k`, whatever the others are (R143, R145). -/
def stringPoints (glyphs : List Glyph) (mem : List Host.Cell) (x y : Int) (src : BitVec 32) (len : Nat) : List (Int × Int) :=
  (List.range len).flatMap fun (k : Nat) =>
    charPoints glyphs (x + (Config.charAdv : Int) * (k : Int)) y (Memory.read mem (srcAddr src k))

/-! ### Bitmaps (42_raster_glyph_bitmap.md R146, R147) -/

/-- Bytes per bitmap row, `ceil_div(w, 8)`. -/
def bitmapStride (w : Nat) : Nat := (w + 7) / 8

/-- The bitmap's bit at `(col, row)`: most significant bit first, rows of `bitmapStride w` bytes. -/
def bitmapBit (mem : List Host.Cell) (src : BitVec 32) (w col row : Nat) : Bool :=
  (Memory.read mem (srcAddr src (row * bitmapStride w + col / 8))).getLsbD (7 - col % 8)

/-- The points of a bitmap at origin `(x, y)`; none when `w` or `h` is 0. -/
def bitmapPoints (mem : List Host.Cell) (x y : Int) (src : BitVec 32) (w h : Nat) : List (Int × Int) :=
  (List.range h).flatMap fun (row : Nat) =>
    (List.range w).filterMap fun (col : Nat) =>
      if bitmapBit mem src w col row then some (x + (col : Int), y + (row : Int)) else none

/-! ### The request in progress -/

/-- The opcode of a device request (30_encoding.md R75). -/
def DeviceOp.code : DeviceOp → Byte
  | .init => 0x10#8
  | .display => 0x11#8
  | .setBrightness => 0x12#8
  | .fillDisplay => 0x13#8
  | .clearDisplay => 0x14#8

/-- The device request in progress with its operand from REQ, which holds it until it completes (10_state.md R22). -/
def DeviceOp.instr (op : DeviceOp) (req : RequestWord) : Instr :=
  match op with
  | .init => .init
  | .display => .display
  | .setBrightness => .setBrightness (reqK req)
  | .fillDisplay => .fillDisplay
  | .clearDisplay => .clearDisplay

end Sys2Proof.Machine
end

