-- ==== Sys2Proof/Machine/Command.lean ====
section
/-! DEFINITION. What the controller does with a complete command and with a data byte (44_controller_receiver.md R214 to R223, R218), and the panel view (R226). A LOST controller ignores every byte (R212, R218). -/
namespace Sys2Proof.Machine

/-- A display on/off byte; it leaves a forced-off ENTIRE unknown (R214). -/
def Controller.setDisplay (c : Controller) (v : OnOff) : Controller :=
  { c with dispOn := .known v, entire := if c.entire = .known .forcedOff then .unknown else c.entire }

/-- `0xA4` (R220): forced-off becomes unknown, everything else RAM. -/
def Controller.resume (c : Controller) : Controller :=
  { c with entire := if c.entire = .known .forcedOff then .unknown else .known .ram }

/-- `0x21 s e` (R221). -/
def Controller.columnWindow (c : Controller) (s e : Byte) : Controller :=
  if s.toNat ≤ e.toNat ∧ e.toNat ≤ 127 then
    { c with cs := .known s.toNat, ce := .known e.toNat, col := .known s.toNat }
  else Controller.gone

/-- `0x22 s e` (R221). -/
def Controller.pageWindow (c : Controller) (s e : Byte) : Controller :=
  if s.toNat ≤ e.toNat ∧ e.toNat ≤ 7 then
    { c with ps := .known s.toNat, pe := .known e.toNat, page := .known s.toNat }
  else Controller.gone

/-- The index of `RAM[page][col]`. -/
def ramIndex (page col : Nat) : Nat := page * 128 + col

/-- The store of a data byte and the move of the pointer: column first, then page, both back to the window's start at its end (R218). -/
def Controller.store (c : Controller) (v : Byte) (col page cs ce ps pe : Nat) : Controller :=
  { c with
    ram := c.ram.set (ramIndex page col) (.known v)
    col := .known (if col < ce then col + 1 else cs)
    page := .known (if col < ce then page else if page < pe then page + 1 else ps) }

/-- `RecvData(v)` of a controller that is not LOST (R218). -/
def Controller.receiveData (c : Controller) (v : Byte) : Controller :=
  match c.parser, c.mode, c.col, c.page, c.cs, c.ce, c.ps, c.pe with
  | .idle, .known .horizontal, .known col, .known page, .known cs, .known ce, .known ps, .known pe =>
    c.store v col page cs ce ps pe
  | _, _, _, _, _, _, _, _ => Controller.gone

/-- DisplayOff, `0xAE` (R214). -/
def execDisplayOff (s : State) : Host.Outcome State Fault Refusal :=
  .next (s.control fun c => c.setDisplay .off)

/-- DisplayOn, `0xAF` (R214). -/
def execDisplayOn (s : State) : Host.Outcome State Fault Refusal :=
  .next (s.control fun c => c.setDisplay .on)

/-- SetMemoryAddressingMode, `0x20 m` (R215): any operand but 0x00 is LOST. -/
def execSetMemoryAddressingMode (m : Byte) (s : State) : Host.Outcome State Fault Refusal :=
  .next (s.control fun c => if m = 0x00#8 then { c with mode := .known .horizontal } else Controller.gone)

/-- SetContrast, `0x81 v` (R216). -/
def execSetContrast (v : Byte) (s : State) : Host.Outcome State Fault Refusal :=
  .next (s.control fun c => { c with contrast := .known v })

/-- SetSegmentRemap, `0xA1` (R217). -/
def execSetSegmentRemap (s : State) : Host.Outcome State Fault Refusal :=
  .next (s.control fun c => { c with segRemap := .known .set })

/-- SetMultiplexRatio, `0xA8 v` (R217). -/
def execSetMultiplexRatio (v : Byte) (s : State) : Host.Outcome State Fault Refusal :=
  .next (s.control fun c => { c with mux := .known v })

/-- SetComScanRemapped, `0xC8` (R217). -/
def execSetComScanRemapped (s : State) : Host.Outcome State Fault Refusal :=
  .next (s.control fun c => { c with comRemap := .known .set })

/-- SetDisplayOffset, `0xD3 v` (R217). -/
def execSetDisplayOffset (v : Byte) (s : State) : Host.Outcome State Fault Refusal :=
  .next (s.control fun c => { c with offset := .known v })

/-- SetComPins, `0xDA v` (R217). -/
def execSetComPins (v : Byte) (s : State) : Host.Outcome State Fault Refusal :=
  .next (s.control fun c => { c with compins := .known v })

/-- SetClockDivide, `0xD5 v` (R219). -/
def execSetClockDivide (v : Byte) (s : State) : Host.Outcome State Fault Refusal :=
  .next (s.control fun c => { c with clkdiv := .known v })

/-- SetPrechargePeriod, `0xD9 v` (R219). -/
def execSetPrechargePeriod (v : Byte) (s : State) : Host.Outcome State Fault Refusal :=
  .next (s.control fun c => { c with precharge := .known v })

/-- SetVcomhDeselect, `0xDB v` (R219). -/
def execSetVcomhDeselect (v : Byte) (s : State) : Host.Outcome State Fault Refusal :=
  .next (s.control fun c => { c with vcomh := .known v })

/-- ResumeFromRam, `0xA4` (R220). -/
def execResumeFromRam (s : State) : Host.Outcome State Fault Refusal :=
  .next (s.control Controller.resume)

/-- NormalDisplay, `0xA6` (R220). -/
def execNormalDisplay (s : State) : Host.Outcome State Fault Refusal :=
  .next (s.control fun c => { c with invert := .known .normal })

/-- SetColumnAddress, `0x21 s e` (R221). -/
def execSetColumnAddress (first last : Byte) (s : State) : Host.Outcome State Fault Refusal :=
  .next (s.control fun c => c.columnWindow first last)

/-- SetPageAddress, `0x22 s e` (R221). -/
def execSetPageAddress (first last : Byte) (s : State) : Host.Outcome State Fault Refusal :=
  .next (s.control fun c => c.pageWindow first last)

/-- ForceEntireOn, P_FILL_DISPLAY_CMD (R223). -/
def execForceEntireOn (s : State) : Host.Outcome State Fault Refusal :=
  .next (s.control fun c => { c with entire := .known .forcedOn })

/-- ForceEntireOff, P_CLEAR_DISPLAY_CMD (R223). -/
def execForceEntireOff (s : State) : Host.Outcome State Fault Refusal :=
  .next (s.control fun c => { c with entire := .known .forcedOff })

/-- DataByte (R218). -/
def execDataByte (v : Byte) (s : State) : Host.Outcome State Fault Refusal :=
  .next (s.control fun c => c.receiveData v)

/-- A display-memory byte's bit, where the byte is known. -/
def Known.bit (v : Known Byte) (b : Nat) : Known Bool :=
  match v with
  | .unknown => .unknown
  | .known v => .known (v.getLsbD b)

/-- The logical panel view `Visible(x, y)`, for a pixel in panel (R226). -/
def Controller.visible (c : Controller) (x y : Int) : Known Bool :=
  if c.lost then .unknown
  else
    match c.dispOn, c.entire with
    | .unknown, _ => .unknown
    | _, .unknown => .unknown
    | .known .off, _ => .known false
    | .known .on, .known .forcedOn => .known true
    | .known .on, .known .forcedOff => .known false
    | .known .on, .known .ram =>
      if c.invert = .known .normal then Known.bit (c.ram.getD (pixelIndex x y) .unknown) (pixelBit y) else .unknown

end Sys2Proof.Machine
end

