-- ==== Sys2Proof/Machine/GlyphBitmap.lean ====
section
/-! DEFINITION. DRAWCHAR, DRAWSTRING and DRAWBITMAP (42_raster_glyph_bitmap.md R140, R143, R146). -/
namespace Sys2Proof.Machine

/-- DRAWCHAR (R140). -/
def execDrawChar (x y : Int) (ch : Byte) (s : State) : Host.Outcome State Fault Refusal :=
  .next (s.finishRaster 0x03#8 (Fb.light s.fb (charPoints s.glyph x y ch)))

/-- DRAWSTRING (R143). -/
def execDrawString (x y : Int) (src : BitVec 32) (len : Nat) (s : State) : Host.Outcome State Fault Refusal :=
  .next (s.finishRaster 0x04#8 (Fb.light s.fb (stringPoints s.glyph s.mem x y src len)))

/-- DRAWBITMAP (R146). -/
def execDrawBitmap (x y : Int) (src : BitVec 32) (w h : Nat) (s : State) : Host.Outcome State Fault Refusal :=
  .next (s.finishRaster 0x05#8 (Fb.light s.fb (bitmapPoints s.mem x y src w h)))

end Sys2Proof.Machine
end

