-- ==== Sys2Proof/Machine/Line.lean ====
section
/-! DEFINITION. DRAWLINE (41_raster_line.md R120). -/
namespace Sys2Proof.Machine

/-- DRAWLINE (R120): every position of the walk goes through Plot (R124). -/
def execDrawLine (x0 y0 x1 y1 : Int) (s : State) : Host.Outcome State Fault Refusal :=
  .next (s.finishRaster 0x02#8 (Fb.light s.fb (linePositions x0 y0 x1 y1)))

end Sys2Proof.Machine
end

