-- ==== Sys2Proof/Machine/Pixel.lean ====
section
/-! DEFINITION. SETPIXEL, FILLFB and CLEARFB (40_raster_pixel.md R102, R104, R105). -/
namespace Sys2Proof.Machine

/-- SETPIXEL (R102): a nonzero colour sets the pixel, zero clears it. -/
def execSetPixel (x y : Int) (color : Byte) (s : State) : Host.Outcome State Fault Refusal :=
  .next (s.finishRaster 0x01#8 (Fb.plot s.fb x y (decide (color ≠ 0#8))))

/-- FILLFB (R104). -/
def execFillFb (s : State) : Host.Outcome State Fault Refusal :=
  .next (s.finishRaster 0x06#8 (Fb.all 0xFF#8))

/-- CLEARFB (R105). -/
def execClearFb (s : State) : Host.Outcome State Fault Refusal :=
  .next (s.finishRaster 0x07#8 (Fb.all 0x00#8))

end Sys2Proof.Machine
end

