-- ==== Sys2Proof/Machine/Protocol.lean ====
section
/-! DEFINITION. The device protocol: INIT, DISPLAY, SETBRIGHTNESS, FILLDISPLAY and CLEARDISPLAY (43_device_protocol.md). A meaning is one block step of its request: its acceptance, or, when it is the request in progress, its next bus write (00_scope.md R4; log entries 1 and 15). -/
namespace Sys2Proof.Machine

/-- INIT_SEQ (10_state.md R28). -/
def initSeq : List Byte :=
  [0xAE#8, 0x20#8, 0x00#8, 0x81#8, 0x10#8, 0xA1#8, 0xA8#8, 0x3F#8, 0xC8#8, 0xD3#8, 0x00#8,
   0xD5#8, 0x80#8, 0xD9#8, 0x22#8, 0xDA#8, 0x12#8, 0xDB#8, 0x20#8, 0xA4#8, 0xA6#8, 0xAF#8]

/-- INIT's transactions: the 22 bytes, as command bytes (R176). -/
def initTxns : List BusByte := initSeq.map .cmd

/-- The column-window and page-window triples of DISPLAY (R183). -/
def windowTxns : List BusByte := [0x21#8, 0x00#8, 0x7F#8, 0x22#8, 0x00#8, 0x07#8].map .cmd

/-- DISPLAY's transactions: the windows, then FB in index order as data bytes (R183). -/
def displayTxns (fb : List Byte) : List BusByte := windowTxns ++ fb.map .dat

/-- SETBRIGHTNESS's transactions (R187). -/
def brightnessTxns (level : Byte) : List BusByte := [.cmd 0x81#8, .cmd level]

/-- FILLDISPLAY's transaction (R195). -/
def fillDisplayTxns : List BusByte := [.cmd pFillDisplayCmd]

/-- CLEARDISPLAY's transaction (R196). -/
def clearDisplayTxns : List BusByte := [.cmd pClearDisplayCmd]

/-- The index of the next transaction, if `op` is the request in progress. -/
def Seq.position (op : DeviceOp) : Seq → Option Nat
  | .idle => none
  | .busy op' k => if op' = op then some k else none

/-- One bus-write step of `Send(op, txns)` (R172) at transaction `k`: after `ok`, the next transaction or the request's completion by `onOk`; after `fail`, its completion by `onFail` with INFO = k (R173). A `k` past the sequence, which no run reaches, completes the request (log entry 15). -/
def State.sendStep (s : State) (op : DeviceOp) (txns : List BusByte) (onOk onFail : State → State) (k : Nat) : State :=
  match txns[k]? with
  | none => (onOk s).complete 0#16 op.code Status.OK
  | some t =>
    match s.nextAnswer with
    | .fail => (onFail (s.busWrite t)).complete (BitVec.ofNat 16 k) op.code Status.TRANSPORT_FAILURE
    | .ok =>
      if k + 1 < txns.length then { s.busWrite t with seq := .busy op (k + 1) }
      else (onOk (s.busWrite t)).complete 0#16 op.code Status.OK

/-- Acceptance of a device request: `SEQ <- BUSY(op, 0)` (10_state.md R21). -/
def State.startDevice (s : State) (op : DeviceOp) : State := { s with seq := .busy op 0 }

/-- Acceptance of a device request other than INIT: PROTOCOL_MISUSE unless `PSTATE = ACTIVE` (R174). -/
def State.startActive (s : State) (op : DeviceOp) : State :=
  if s.pstate = .active then s.startDevice op else s.raise op.code Status.PROTOCOL_MISUSE

/-- INIT answered `ok` throughout: PSTATE and the shadows (R179, R180). -/
def State.initOk (s : State) : State :=
  { s with
    pstate := .active
    contrast := .known Config.initContrast
    addrMode := .known .horizontal
    power := .known .on
    dispSrc := .known .buffer }

/-- INIT failed: PSTATE and the shadows (R181). -/
def State.initFail (s : State) : State :=
  { s with pstate := .uninit, contrast := .unknown, addrMode := .unknown, power := .unknown, dispSrc := .unknown }

/-- INIT (R176), accepted in both protocol states (R182). -/
def execInit (s : State) : Host.Outcome State Fault Refusal :=
  .next (match s.seq.position .init with
    | some k => s.sendStep .init initTxns State.initOk State.initFail k
    | none => s.startDevice .init)

/-- DISPLAY (R183): PSTATE and the shadows stay, whatever the answers. -/
def execDisplay (s : State) : Host.Outcome State Fault Refusal :=
  .next (match s.seq.position .display with
    | some k => s.sendStep .display (displayTxns s.fb) id id k
    | none => s.startActive .display)

/-- SETBRIGHTNESS (R187). -/
def execSetBrightness (level : Byte) (s : State) : Host.Outcome State Fault Refusal :=
  .next (match s.seq.position .setBrightness with
    | some k =>
      s.sendStep .setBrightness (brightnessTxns level)
        (fun t => { t with contrast := .known level }) (fun t => { t with contrast := .unknown }) k
    | none => s.startActive .setBrightness)

/-- FILLDISPLAY (R195). -/
def execFillDisplay (s : State) : Host.Outcome State Fault Refusal :=
  .next (match s.seq.position .fillDisplay with
    | some k =>
      s.sendStep .fillDisplay fillDisplayTxns
        (fun t => { t with dispSrc := .known .forcedOn }) (fun t => { t with dispSrc := .unknown }) k
    | none => s.startActive .fillDisplay)

/-- CLEARDISPLAY (R196). -/
def execClearDisplay (s : State) : Host.Outcome State Fault Refusal :=
  .next (match s.seq.position .clearDisplay with
    | some k =>
      s.sendStep .clearDisplay clearDisplayTxns
        (fun t => { t with dispSrc := .known .forcedOff }) (fun t => { t with dispSrc := .unknown }) k
    | none => s.startActive .clearDisplay)

end Sys2Proof.Machine
end

