-- ==== Sys2Proof/Machine/Dispatch.lean ====
section
/-! DEFINITION. The meaning of every instruction: one arm per constructor of `Instr`. -/
namespace Sys2Proof.Machine

def exec (i : Instr) (s : State) : Host.Outcome State Fault Refusal :=
  match i with
  -- rasterizer requests
  | .setPixel x y color => Sys2Proof.Machine.execSetPixel x y color s
  | .drawLine x0 y0 x1 y1 => Sys2Proof.Machine.execDrawLine x0 y0 x1 y1 s
  | .drawChar x y ch => Sys2Proof.Machine.execDrawChar x y ch s
  | .drawString x y src len => Sys2Proof.Machine.execDrawString x y src len s
  | .drawBitmap x y src w h => Sys2Proof.Machine.execDrawBitmap x y src w h s
  | .fillFb => Sys2Proof.Machine.execFillFb s
  | .clearFb => Sys2Proof.Machine.execClearFb s
  -- device-protocol requests
  | .init => Sys2Proof.Machine.execInit s
  | .display => Sys2Proof.Machine.execDisplay s
  | .setBrightness level => Sys2Proof.Machine.execSetBrightness level s
  | .fillDisplay => Sys2Proof.Machine.execFillDisplay s
  | .clearDisplay => Sys2Proof.Machine.execClearDisplay s
  -- controller commands and the data byte
  | .displayOff => Sys2Proof.Machine.execDisplayOff s
  | .displayOn => Sys2Proof.Machine.execDisplayOn s
  | .setMemoryAddressingMode m => Sys2Proof.Machine.execSetMemoryAddressingMode m s
  | .setContrast v => Sys2Proof.Machine.execSetContrast v s
  | .setSegmentRemap => Sys2Proof.Machine.execSetSegmentRemap s
  | .setMultiplexRatio v => Sys2Proof.Machine.execSetMultiplexRatio v s
  | .setComScanRemapped => Sys2Proof.Machine.execSetComScanRemapped s
  | .setDisplayOffset v => Sys2Proof.Machine.execSetDisplayOffset v s
  | .setComPins v => Sys2Proof.Machine.execSetComPins v s
  | .setClockDivide v => Sys2Proof.Machine.execSetClockDivide v s
  | .setPrechargePeriod v => Sys2Proof.Machine.execSetPrechargePeriod v s
  | .setVcomhDeselect v => Sys2Proof.Machine.execSetVcomhDeselect v s
  | .resumeFromRam => Sys2Proof.Machine.execResumeFromRam s
  | .normalDisplay => Sys2Proof.Machine.execNormalDisplay s
  | .setColumnAddress first last => Sys2Proof.Machine.execSetColumnAddress first last s
  | .setPageAddress first last => Sys2Proof.Machine.execSetPageAddress first last s
  | .forceEntireOn => Sys2Proof.Machine.execForceEntireOn s
  | .forceEntireOff => Sys2Proof.Machine.execForceEntireOff s
  | .dataByte v => Sys2Proof.Machine.execDataByte v s

end Sys2Proof.Machine
end

