-- ==== Sys2Proof/Machine/Fetch.lean ====
section
/-! DEFINITION. What the next step of the machine is: which agent moves, and the instruction it runs. The controller receives an answered transaction if there is one (44_controller_receiver.md R210, R212), else the block goes on with the request in progress, else it accepts the next presented word (10_state.md R22; 30_encoding.md R73), else it stays IDLE (60_exceptions.md R257). Log entries 1 to 4. -/
namespace Sys2Proof.Machine

/-- What the next step does: run an instruction in a state, or leave a state without running one. -/
inductive Fetched where
  | run (i : Instr) (s : State)
  | done (s : State)
  deriving DecidableEq, Repr

/-- The command bytes received are a whole command, or not in the spec's table (R213). -/
def runCommand (bytes : List Byte) (s : State) : Fetched :=
  match decode (.command bytes) with
  | .instr i => .run i s
  | .reject _ => .done { s with ctl := Controller.gone }

/-- `RecvCmd(b)` of a controller that is not LOST (R212). -/
def receiveCommand (b : Byte) (s : State) : Fetched :=
  match s.ctl.parser with
  | .idle =>
    match operandCount b with
    | none => .done { s with ctl := Controller.gone }
    | some 0 => runCommand [b] s
    | some (n + 1) => .done { s with ctl := { s.ctl with parser := .need b (n + 1) [] } }
  | .need op n got =>
    if (got ++ [b]).length = n then runCommand (op :: (got ++ [b])) { s with ctl := { s.ctl with parser := .idle } }
    else .done { s with ctl := { s.ctl with parser := .need op n (got ++ [b]) } }
  | .unknown => .done { s with ctl := Controller.gone }

/-- The controller receives a transaction: a failed one makes it LOST (R222), a LOST controller ignores it (R212, R218). -/
def receive (t : Txn) (s : State) : Fetched :=
  match t.answer with
  | .fail => .done { s with ctl := Controller.gone }
  | .ok =>
    if s.ctl.lost then .done s
    else
      match t.reg with
      | .command => receiveCommand t.byte s
      | .data => .run (.dataByte t.byte) s

/-- The port accepts a word (30_encoding.md R73): its request is latched and run; a rejected word changes STATUS only, its OPC the word's low byte (60_exceptions.md R241, R244; log entry 14). -/
def accept (w : RequestWord) (s : State) : Fetched :=
  match decode (.request w) with
  | .instr i => .run i { s with req := w }
  | .reject _ => .done (s.raise (reqOp w) Status.ILLEGAL_REQUEST)

/-- The machine's next step. -/
def fetch (s : State) : Fetched :=
  match s.inbox with
  | t :: rest => receive t { s with inbox := rest }
  | [] =>
    match s.seq with
    | .busy op _ => .run (op.instr s.req) s
    | .idle =>
      match s.port with
      | w :: rest => accept w { s with port := rest }
      | [] => .done s

/-- `s` with the words where the next step fetches: a request word presented first to an idle port, nothing waiting for the controller; a command's last byte (its other bytes received) or a data byte, answered `ok`, first to be received by a controller that is not LOST. Log entry 4. -/
def placeWords (words : Words) (s : State) : State :=
  match words with
  | .request w => { s with inbox := [], seq := .idle, port := w :: s.port }
  | .data v =>
    { s with
      inbox := ⟨.data, v, .ok⟩ :: s.inbox
      ctl := if s.ctl.lost then Controller.powerUp else s.ctl }
  | .command [] => s
  | .command [b] =>
    { s with
      inbox := ⟨.command, b, .ok⟩ :: s.inbox
      ctl := { (if s.ctl.lost then Controller.powerUp else s.ctl) with parser := .idle } }
  | .command (b :: v :: ops) =>
    { s with
      inbox := ⟨.command, (v :: ops).getLastD 0#8, .ok⟩ :: s.inbox
      ctl := { (if s.ctl.lost then Controller.powerUp else s.ctl) with
               parser := .need b (ops.length + 1) (v :: ops).dropLast } }

end Sys2Proof.Machine
end

