-- ==== Sys2Proof/Machine/Step.lean ====
section
/-! DEFINITION. One step of the machine (70_reset_and_hazards.md R277), and the placing of an instruction where the next step fetches it. -/
namespace Sys2Proof.Machine

/-- One step: the instruction the fetch gives, run in the state the fetch leaves, or that state itself. -/
def step (s : State) : Host.Outcome State Fault Refusal :=
  match fetch s with
  | .run i s' => exec i s'
  | .done s' => .next s'

/-- `s` with the instruction of a table row's bits stored where the next step fetches it (log entry 4). -/
def State.withFetchWord (s : State) (nbits w : Nat) : State := placeWords (tableWords nbits w) s

end Sys2Proof.Machine
end

