-- ==== Sys2Proof/Machine/HostPort.lean ====
section
/-! DEFINITION. The host's steps (70_reset_and_hazards.md R277) and the platform's reset (R270): what the outside world can do to the machine between its own steps. Log entries 4 and 19. -/
namespace Sys2Proof.Machine

/-- A step of the host or the platform. -/
inductive HostStep where
  /-- Present a request word; the port takes it when SEQ is IDLE (10_state.md R22). -/
  | present (w : RequestWord)
  /-- Change a byte of SRCMEM. -/
  | writeSource (a : BitVec 32) (b : Byte)
  /-- Change the glyph of a code. -/
  | writeGlyph (ch : Byte) (g : Glyph)
  /-- Read STATUS. -/
  | readStatus
  /-- Write STATUS, which is read-only (10_state.md R26). -/
  | writeStatus (v : BitVec 32)
  /-- The platform asserts reset (R270). -/
  | reset
  deriving DecidableEq, Repr

/-- What the host sees of SEQ: whether the port accepts a word (10_state.md R20, 60_exceptions.md R248). -/
def State.portReady (s : State) : Bool := decide (s.seq = .idle)

/-- What a read of STATUS answers (10_state.md R26). -/
def State.readStatus (s : State) : BitVec 32 := s.status

/-- The state after a further reset (R270, R271, R274): the block's state of R271 with new draws, the controller at power-up (44 R224), the inputs of the host and the transport as they were. -/
def State.afterReset (s : State) : State :=
  { State.reset with
    fb := fbResetDraw (s.resets + 1)
    req := Config.reqReset (s.resets + 1)
    port := s.port
    glyph := s.glyph
    mem := s.mem
    answers := s.answers
    draws := s.draws
    resets := s.resets + 1 }

/-- A host step. GLYPH and SRCMEM change only while SEQ is IDLE (R277, R281); a read of STATUS changes nothing, a write to it is ignored (10_state.md R26). -/
def hostStep (h : HostStep) (s : State) : State :=
  match h with
  | .present w => { s with port := s.port ++ [w] }
  | .writeSource a b => if s.seq = .idle then { s with mem := Memory.write s.mem a b } else s
  | .writeGlyph ch g => if s.seq = .idle then { s with glyph := glyphWrite s.glyph ch g } else s
  | .readStatus => s
  | .writeStatus _ => s
  | .reset => s.afterReset

end Sys2Proof.Machine
end

