-- ==== Sys2Proof/Safety.lean ====
section
/-! DEFINITION. The terms the statements use: the transactions of the request in progress, the controller as a function of the transactions it received, and the invariants of the machine. -/
namespace Sys2Proof.Machine

/-- The whole transaction sequence of a device request, as the state gives its operands (43_device_protocol.md R189). -/
def requestTxns (op : DeviceOp) (s : State) : List BusByte :=
  match op with
  | .init => initTxns
  | .display => displayTxns s.fb
  | .setBrightness => brightnessTxns (reqK s.req)
  | .fillDisplay => fillDisplayTxns
  | .clearDisplay => clearDisplayTxns

/-- The controller after it receives one answered transaction: what the machine's own step makes of it (44_controller_receiver.md R210). -/
def Controller.after (c : Controller) (t : Txn) : Controller :=
  match step { State.reset with inbox := [t], ctl := c } with
  | .next s => s.ctl
  | .fault _ => c
  | .refused _ => c

/-- The controller after a list of answered transactions, from a given state of it. -/
def Controller.afterAll (c : Controller) (ts : List Txn) : Controller := ts.foldl Controller.after c

/-- The controller after a list of answered transactions, from its power-up (R224). -/
def controllerOf (ts : List Txn) : Controller := Controller.powerUp.afterAll ts

/-- What `Send` puts on the bus: its transactions in order, each with its answer, up to the first `fail` (43 R172). -/
def sendTrace : List BusByte → List Answer → List Txn
  | t :: ts, .ok :: as => t.answered .ok :: sendTrace ts as
  | t :: _, .fail :: _ => [t.answered .fail]
  | _, _ => []

/-- The whole machine run for `n` steps. -/
def runs (n : Nat) (s : State) : Host.Outcome State Fault Refusal := Host.Core.run Sys2Proof.core n s

/-- The opcode of a request, 0 for the rows that are no request (30_encoding.md R75). -/
def opcodeOf : Instr → Byte
  | .setPixel .. => 0x01#8
  | .drawLine .. => 0x02#8
  | .drawChar .. => 0x03#8
  | .drawString .. => 0x04#8
  | .drawBitmap .. => 0x05#8
  | .fillFb => 0x06#8
  | .clearFb => 0x07#8
  | .init => 0x10#8
  | .display => 0x11#8
  | .setBrightness _ => 0x12#8
  | .fillDisplay => 0x13#8
  | .clearDisplay => 0x14#8
  | _ => 0x00#8

/-- A signed 16-bit field read from its unsigned value (00_scope.md R12). -/
def signed16 (n : Nat) : Int := if n < 32768 then n else (n : Int) - 65536

/-- The unsigned value of bits `lo + len - 1` down to `lo` of a request word (30_encoding.md R71). -/
def fieldOf (w : RequestWord) (lo len : Nat) : Nat := w.toNat / 2 ^ lo % 2 ^ len

/-- `p` and `q` differ by at most 1 in each coordinate and are not equal (41_raster_line.md R123). -/
def Adjacent (p q : Int × Int) : Prop := p ≠ q ∧ |p.1 - q.1| ≤ 1 ∧ |p.2 - q.2| ≤ 1

/-- An 8-connected path from `p` to `q`: a list of positions from one to the other, consecutive ones adjacent. -/
def IsPath (p q : Int × Int) (l : List (Int × Int)) : Prop :=
  l.head? = some p ∧ l.getLast? = some q ∧ List.IsChain Adjacent l

/-- Every transaction of a list answered `ok`. -/
def allOk (ts : List Txn) : Bool := ts.all fun t => decide (t.answer = .ok)

/-- A pointer and its window, of columns or of pages: all three unknown, or the pointer inside a window that ends at most at `top` (44 R211, R218, R221). -/
def pointerOk (top : Nat) (p first last : Known Nat) : Bool :=
  match p, first, last with
  | .unknown, .unknown, .unknown => true
  | .known p, .known a, .known b => decide (a ≤ p) && decide (p ≤ b) && decide (b ≤ top)
  | _, _, _ => false

/-- The parser waits for fewer operand bytes than its command takes (44 R212). -/
def parserOk (p : Parser) : Bool :=
  match p with
  | .idle => true
  | .need op n got => decide (operandCount op = some n) && decide (got.length < n)
  | .unknown => false

/-- What holds of the controller always: LOST means every other field UNKNOWN (44 R213), the display memory keeps its size, the pointers stay in their windows, the parser waits for operands of a command of the table. -/
structure Controller.Inv (c : Controller) : Prop where
  ramSize : c.ram.length = 1024
  lostKnowsNothing : c.lost = true → c = Controller.gone
  columnOk : pointerOk 127 c.col c.cs c.ce = true
  pageOk : pointerOk 7 c.page c.ps c.pe = true
  parser : c.lost = false → parserOk c.parser = true

/-- What holds of the machine always. -/
structure State.Inv (s : State) : Prop where
  /-- FB is never resized (10_state.md R23). -/
  fbSize : s.fb.length = 1024
  /-- GLYPH covers the codes 32 to 127 (20_memory.md R53). -/
  glyphSize : s.glyph.length = 96
  /-- Source memory keeps its canonical form. -/
  memWf : Memory.wf s.mem = true
  /-- `k` is the index of a transaction of the sequence (10_state.md R21). -/
  position : ∀ op k, s.seq = .busy op k → k < (requestTxns op s).length
  /-- A device request other than INIT runs in ACTIVE only (43 R174). -/
  active : ∀ op k, s.seq = .busy op k → op ≠ .init → s.pstate = .active
  /-- Only the codes of 60 R240 are written. -/
  code : (Status.code s.status).toNat ≤ 3
  /-- INFO is 0 but for a transport failure, where it is a transaction index (10_state.md R26). -/
  info : Status.info s.status ≠ 0#16 → Status.code s.status = Status.TRANSPORT_FAILURE ∧ (Status.info s.status).toNat ≤ 1029
  /-- ACTIVE is reached only through a complete INIT, which leaves these shadows (43 R179, R180). -/
  activeShadows : s.pstate = .active → s.addrMode = .known .horizontal ∧ s.power = .known .on
  /-- In UNINIT nothing of the configuration is known but for CONTRAST (10_state.md R27; 43 R181). -/
  uninitShadows : s.pstate = .uninit → s.addrMode = .unknown ∧ s.power = .unknown ∧ s.dispSrc = .unknown
  controller : s.ctl.Inv

/-- The controller's state is a function of the transactions of TRACE it has received, in TRACE order (44 R210). -/
def State.Tracks (s : State) : Prop := ∃ got, s.trace = got ++ s.inbox ∧ s.ctl = controllerOf got

/-- A controller that listens: not LOST, its parser idle, and its addressing mode horizontal if the block is ACTIVE. -/
structure Controller.Listens (c : Controller) (p : PState) : Prop where
  notLost : c.lost = false
  idle : c.parser = .idle
  horizontal : p = .active → c.mode = .known .horizontal

/-- While no transaction has failed, the controller, having received all of TRACE, listens whenever the block is IDLE; while a request is in progress it stands where the request's first `k` transactions bring a controller that listened. -/
def State.BusInv (s : State) : Prop :=
  allOk s.trace = true →
    match s.seq with
    | .idle => (controllerOf s.trace).Listens s.pstate
    | .busy op k =>
      ∃ c : Controller, c.Listens s.pstate ∧
        controllerOf s.trace = c.afterAll (((requestTxns op s).take k).map fun t => t.answered .ok)

end Sys2Proof.Machine
end

