-- ==== Sys2Proof/Certificates/Slice0/Obligations.lean ====
section
/-! DEFINITION. The statements for the provers, each from a rule of spec/ (named in its docstring). -/
open Sys2Proof Sys2Proof.Machine

/-! ### Reset and the host's steps -/

/-- R271: the block's state after reset. FB is the draw FB_RESET; REQ is unspecified, and the first step gives the same state whatever it holds. -/
def Obligations.ResetStateIsAsListed : Prop :=
  State.reset.seq = .idle ∧ State.reset.pstate = .uninit ∧ State.reset.status = 0x00000000#32 ∧
  State.reset.contrast = .known 0x7F#8 ∧ State.reset.addrMode = .unknown ∧ State.reset.power = .unknown ∧
  State.reset.dispSrc = .unknown ∧ State.reset.trace = [] ∧
  State.reset.fb.length = 1024 ∧ (∀ i, i < 1024 → Fb.byteAt State.reset.fb i = Config.fbReset 0 i) ∧
  initSeq = [0xAE#8, 0x20#8, 0x00#8, 0x81#8, 0x10#8, 0xA1#8, 0xA8#8, 0x3F#8, 0xC8#8, 0xD3#8, 0x00#8,
    0xD5#8, 0x80#8, 0xD9#8, 0x22#8, 0xDA#8, 0x12#8, 0xDB#8, 0x20#8, 0xA4#8, 0xA6#8, 0xAF#8] ∧
  (∀ v, step { State.reset with req := v } = .next { State.reset with req := v }) ∧
  (∀ v w i, decode (.request w) = .instr i →
    step { State.reset with req := v, port := [w] } = step { State.reset with port := [w] })

/-- R270, R273: a reset after any history leaves IDLE, UNINIT and the listed values, emits no transaction, draws FB anew, and leaves the inputs of the host and the transport. That the controller's power-up coincides with it is the model's reading of R224 (log entry 19). -/
def Obligations.ResetEventLeavesTheListedState : Prop :=
  ∀ s : State,
    hostStep .reset s =
      { State.reset with
        fb := (hostStep .reset s).fb, req := (hostStep .reset s).req, port := s.port, glyph := s.glyph, mem := s.mem,
        answers := s.answers, draws := s.draws, resets := s.resets + 1 } ∧
    (hostStep .reset s).trace = [] ∧ (hostStep .reset s).inbox = [] ∧ (hostStep .reset s).pstate = .uninit ∧
    (hostStep .reset s).fb.length = 1024 ∧
    ∀ i, i < 1024 → Fb.byteAt (hostStep .reset s).fb i = Config.fbReset (s.resets + 1) i

/-- R224: the controller at power-up: every field UNKNOWN, but for the idle parser and LOST false. That every reset of the block powers the controller up is the model's reading, not the spec's rule: R274 leaves the coincidence to the platform and R224 takes it so (log entry 19, DEDUCED, unsafe). -/
def Obligations.ControllerPowersUpUnknown : Prop :=
  State.reset.ctl = Controller.powerUp ∧ (∀ s, (hostStep .reset s).ctl = Controller.powerUp) ∧ Controller.powerUp.parser = .idle ∧ Controller.powerUp.lost = false ∧
  (∀ i, Controller.powerUp.ram.getD i .unknown = .unknown) ∧
  [Controller.powerUp.col, Controller.powerUp.page, Controller.powerUp.cs, Controller.powerUp.ce,
    Controller.powerUp.ps, Controller.powerUp.pe] = List.replicate 6 .unknown ∧
  [Controller.powerUp.contrast, Controller.powerUp.mux, Controller.powerUp.offset, Controller.powerUp.compins,
    Controller.powerUp.clkdiv, Controller.powerUp.precharge, Controller.powerUp.vcomh] = List.replicate 7 .unknown ∧
  Controller.powerUp.mode = .unknown ∧ Controller.powerUp.dispOn = .unknown ∧ Controller.powerUp.entire = .unknown ∧
  Controller.powerUp.invert = .unknown ∧ Controller.powerUp.segRemap = .unknown ∧ Controller.powerUp.comRemap = .unknown

/-- R277, R26: the host's steps other than reset. GLYPH and SRCMEM change while SEQ is IDLE; a read of STATUS answers STATUS and changes nothing; a write to STATUS is ignored. Two clauses are the model's: that a presented word waits at the end of a queue (log entry 3), and that a change of GLYPH or SRCMEM while SEQ is BUSY is ignored (log entry 25: R65 makes not changing them the host's duty, and 93 U9 says that the case is not produced). -/
def Obligations.HostStepsTouchOnlyTheirOwn : Prop :=
  (∀ s w, hostStep (.present w) s = { s with port := s.port ++ [w] }) ∧
  (∀ s, hostStep .readStatus s = s ∧ s.readStatus = s.status) ∧
  (∀ s v, hostStep (.writeStatus v) s = s) ∧
  (∀ s a b, Memory.wf s.mem = true → s.seq = .idle →
    ∃ m, hostStep (.writeSource a b) s = { s with mem := m } ∧ Memory.wf m = true ∧
      ∀ x, Memory.read m x = if x = a then b else Memory.read s.mem x) ∧
  (∀ s ch g, s.glyph.length = 96 → s.seq = .idle → 32 ≤ ch.toNat → ch.toNat ≤ 127 →
    ∃ gs, hostStep (.writeGlyph ch g) s = { s with glyph := gs } ∧ gs.length = 96 ∧
      ∀ x : Byte, glyphAt gs x = if x = ch then some g else glyphAt s.glyph x) ∧
  (∀ s op k a b ch g, s.seq = .busy op k → hostStep (.writeSource a b) s = s ∧ hostStep (.writeGlyph ch g) s = s)

/-! ### Encodings -/

/-- 30_encoding.md: decoding the words of a well-formed instruction gives it back, for every row of the table and every operand value. -/
def Obligations.DecodeOfEncodeIsTheInstruction : Prop :=
  ∀ i : Instr, WellFormed i → decode (encode i) = .instr i

/-- R74, R75: what the decoder reads from a request word is a request with its operands in range, and its opcode is the word's OP. -/
def Obligations.DecodedRequestsAreInRange : Prop :=
  ∀ (w : RequestWord) (i : Instr), decode (.request w) = .instr i →
    WellFormed i ∧ i.isRequest = true ∧ opcodeOf i = reqOp w

/-- R72: the operands of each opcode, from the numbers of the word's fields; fields an opcode does not use do not occur. -/
def Obligations.OperandsComeFromTheListedFields : Prop :=
  ∀ w : RequestWord, fieldOf w 112 16 = 0 →
    (fieldOf w 0 8 = 0x01 → decode (.request w) =
      .instr (.setPixel (signed16 (fieldOf w 16 16)) (signed16 (fieldOf w 32 16)) (BitVec.ofNat 8 (fieldOf w 8 8)))) ∧
    (fieldOf w 0 8 = 0x02 → decode (.request w) =
      .instr (.drawLine (signed16 (fieldOf w 16 16)) (signed16 (fieldOf w 32 16)) (signed16 (fieldOf w 48 16)) (signed16 (fieldOf w 64 16)))) ∧
    (fieldOf w 0 8 = 0x03 → decode (.request w) =
      .instr (.drawChar (signed16 (fieldOf w 16 16)) (signed16 (fieldOf w 32 16)) (BitVec.ofNat 8 (fieldOf w 8 8)))) ∧
    (fieldOf w 0 8 = 0x04 → decode (.request w) =
      .instr (.drawString (signed16 (fieldOf w 16 16)) (signed16 (fieldOf w 32 16)) (BitVec.ofNat 32 (fieldOf w 80 32)) (fieldOf w 48 16))) ∧
    (fieldOf w 0 8 = 0x05 → decode (.request w) =
      .instr (.drawBitmap (signed16 (fieldOf w 16 16)) (signed16 (fieldOf w 32 16)) (BitVec.ofNat 32 (fieldOf w 80 32)) (fieldOf w 48 16) (fieldOf w 64 16))) ∧
    (fieldOf w 0 8 = 0x06 → decode (.request w) = .instr .fillFb) ∧
    (fieldOf w 0 8 = 0x07 → decode (.request w) = .instr .clearFb) ∧
    (fieldOf w 0 8 = 0x10 → decode (.request w) = .instr .init) ∧
    (fieldOf w 0 8 = 0x11 → decode (.request w) = .instr .display) ∧
    (fieldOf w 0 8 = 0x12 → decode (.request w) = .instr (.setBrightness (BitVec.ofNat 8 (fieldOf w 8 8)))) ∧
    (fieldOf w 0 8 = 0x13 → decode (.request w) = .instr .fillDisplay) ∧
    (fieldOf w 0 8 = 0x14 → decode (.request w) = .instr .clearDisplay)

/-- R76: a request word is rejected exactly when a bit of RSV is set or its OP is unassigned. -/
def Obligations.IllegalRequestWordsAreTheListedOnes : Prop :=
  ∀ w : RequestWord,
    (∃ r, decode (.request w) = .reject r) ↔
      fieldOf w 112 16 ≠ 0 ∨ fieldOf w 0 8 = 0 ∨ (0x08 ≤ fieldOf w 0 8 ∧ fieldOf w 0 8 ≤ 0x0F) ∨ 0x15 ≤ fieldOf w 0 8

/-- R84: the example words of the spec, the two illegal ones among them. -/
def Obligations.ExampleWordsDecodeAsListed : Prop :=
  decode (.request 0x00000000000000000000000d00050101#128) = .instr (.setPixel 5 13 1#8) ∧
  decode (.request 0x000000000000000000000000ffff0101#128) = .instr (.setPixel (-1) 0 1#8) ∧
  decode (.request 0x00000000000000070007000000000002#128) = .instr (.drawLine 0 0 7 7) ∧
  decode (.request 0x00000000000000007fff000080000002#128) = .instr (.drawLine (-32768) 0 32767 0) ∧
  decode (.request 0x00000000000000000000000000004103#128) = .instr (.drawChar 0 0 0x41#8) ∧
  decode (.request 0x00000000100000000002000800000004#128) = .instr (.drawString 0 8 0x1000#32 2) ∧
  decode (.request 0x00000000200000080008003e007e0005#128) = .instr (.drawBitmap 126 62 0x2000#32 8 8) ∧
  decode (.request 0x00000000000000000000000000000006#128) = .instr .fillFb ∧
  decode (.request 0x00000000000000000000000000000007#128) = .instr .clearFb ∧
  decode (.request 0x00000000000000000000000000000010#128) = .instr .init ∧
  decode (.request 0x00000000000000000000000000000011#128) = .instr .display ∧
  decode (.request 0x00000000000000000000000000007f12#128) = .instr (.setBrightness 0x7F#8) ∧
  decode (.request 0x00000000000000000000000000000013#128) = .instr .fillDisplay ∧
  decode (.request 0x00000000000000000000000000000014#128) = .instr .clearDisplay ∧
  decode (.request 0x00000000000000000000000000000008#128) = .reject .illegalOpcode ∧
  decode (.request 0x00010000000000000000000000000006#128) = .reject .reservedBits

/-- R80: INIT_SEQ lines up with the fourteen commands of 1+2+2+1+2+1+2+2+2+2+2+1+1+1 = 22 bytes. -/
def Obligations.InitSequenceIsFourteenCommands : Prop :=
  ∃ cmds : List (List Byte), cmds.flatten = initSeq ∧
    operandCount 0x21#8 = some 2 ∧ operandCount 0x22#8 = some 2 ∧ operandCount 0x81#8 = some 1 ∧ cmds.map List.length = [1, 2, 2, 1, 2, 1, 2, 2, 2, 2, 2, 1, 1, 1] ∧
    cmds.map decodeCommand =
      [.instr .displayOff, .instr (.setMemoryAddressingMode 0x00#8), .instr (.setContrast 0x10#8), .instr .setSegmentRemap,
       .instr (.setMultiplexRatio 0x3F#8), .instr .setComScanRemapped, .instr (.setDisplayOffset 0x00#8),
       .instr (.setClockDivide 0x80#8), .instr (.setPrechargePeriod 0x22#8), .instr (.setComPins 0x12#8),
       .instr (.setVcomhDeselect 0x20#8), .instr .resumeFromRam, .instr .normalDisplay, .instr .displayOn]

/-- D21, 44_controller_receiver.md R223: the two open command bytes differ from every other first byte and from each other, so each stands for its own command. -/
def Obligations.OpenCommandBytesAreDistinct : Prop :=
  pFillDisplayCmd ≠ pClearDisplayCmd ∧
  (∀ b ∈ [0xAE#8, 0x20#8, 0x81#8, 0xA1#8, 0xA8#8, 0xC8#8, 0xD3#8, 0xD5#8, 0xD9#8, 0xDA#8, 0xDB#8, 0xA4#8, 0xA6#8, 0xAF#8,
      0x21#8, 0x22#8], b ≠ pFillDisplayCmd ∧ b ≠ pClearDisplayCmd) ∧
  decode (.command [pFillDisplayCmd]) = .instr .forceEntireOn ∧
  decode (.command [pClearDisplayCmd]) = .instr .forceEntireOff

/-! ### The step -/

/-- R22: with nothing for the controller to receive and SEQ IDLE, the port takes the oldest presented word into REQ and the step is its instruction's. That the words not yet accepted wait in a queue is the model's (log entry 3), and so is that a waiting transaction is received first (log entry 2). -/
def Obligations.StepRunsTheAcceptedRequest : Prop :=
  ∀ (s : State) (w : RequestWord) (rest : List RequestWord) (i : Instr),
    s.inbox = [] → s.seq = .idle → s.port = w :: rest → decode (.request w) = .instr i →
    step s = exec i { s with port := rest, req := w }

/-- R244, R76: a word with a bit of RSV set or an unassigned OP completes at once: STATUS is ILLEGAL_REQUEST with OPC its low byte, the word is no longer presented, nothing else changes. That REQ is not written is the model's reading (log entry 14), and the queue of presented words is the model's (log entry 3). -/
def Obligations.StepReportsIllegalRequests : Prop :=
  ∀ (s : State) (w : RequestWord) (rest : List RequestWord),
    s.inbox = [] → s.seq = .idle → s.port = w :: rest →
    (fieldOf w 112 16 ≠ 0 ∨ fieldOf w 0 8 = 0 ∨ (0x08 ≤ fieldOf w 0 8 ∧ fieldOf w 0 8 ≤ 0x0F) ∨ 0x15 ≤ fieldOf w 0 8) →
    step s = .next { s with port := rest, status := BitVec.ofNat 32 (fieldOf w 0 8 * 256 + 3) }

/-- R21, R22: while SEQ is BUSY the step is the request in progress, its operand from REQ. -/
def Obligations.StepRunsTheRequestInProgress : Prop :=
  ∀ (s : State) (k : Nat), s.inbox = [] →
    (s.seq = .busy .init k → step s = exec .init s) ∧
    (s.seq = .busy .display k → step s = exec .display s) ∧
    (s.seq = .busy .setBrightness k → step s = exec (.setBrightness (BitVec.ofNat 8 (fieldOf s.req 8 8))) s) ∧
    (s.seq = .busy .fillDisplay k → step s = exec .fillDisplay s) ∧
    (s.seq = .busy .clearDisplay k → step s = exec .clearDisplay s)

/-- R212: how a controller that is not LOST receives a command byte answered `ok`, and that a LOST one ignores it; R213: a first byte outside the table (`CommandTableIsTheListedOne` says which bytes those are) loses the controller; R218: a data byte is received by its own meaning. That the parser of a LOST controller is unknown too is log entry 13 (DEDUCED), and that transactions wait in `inbox` log entry 2. -/
def Obligations.StepReceivesTheOldestTransaction : Prop :=
  ∀ (s : State) (b : Byte) (rest : List Txn),
    (s.inbox = ⟨.command, b, .ok⟩ :: rest → s.ctl.lost = true → step s = .next { s with inbox := rest }) ∧
    (s.inbox = ⟨.data, b, .ok⟩ :: rest → s.ctl.lost = true → step s = .next { s with inbox := rest }) ∧
    (s.inbox = ⟨.data, b, .ok⟩ :: rest → s.ctl.lost = false → step s = exec (.dataByte b) { s with inbox := rest }) ∧
    (s.inbox = ⟨.command, b, .ok⟩ :: rest → s.ctl.lost = false →
      (s.ctl.parser = .idle → operandCount b = none → step s = .next { s with inbox := rest, ctl := Controller.gone }) ∧
      (∀ i, s.ctl.parser = .idle → operandCount b = some 0 → decode (.command [b]) = .instr i →
        step s = exec i { s with inbox := rest }) ∧
      (∀ n, s.ctl.parser = .idle → operandCount b = some (n + 1) →
        step s = .next { s with inbox := rest, ctl := { s.ctl with parser := .need b (n + 1) [] } }) ∧
      (∀ op n got, s.ctl.parser = .need op n got → (got ++ [b]).length ≠ n →
        step s = .next { s with inbox := rest, ctl := { s.ctl with parser := .need op n (got ++ [b]) } }) ∧
      (∀ op n got i, s.ctl.parser = .need op n got → (got ++ [b]).length = n → decode (.command (op :: (got ++ [b]))) = .instr i →
        step s = exec i { s with inbox := rest, ctl := { s.ctl with parser := .idle } }))

/-- R222: a failed transaction leaves the controller LOST, whatever it was. That every other field is UNKNOWN from then on is R213's; that the parser is among those fields is the model's reading (log entry 13, DEDUCED). -/
def Obligations.FailedTransactionLosesTheController : Prop :=
  ∀ (s : State) (r : BusReg) (b : Byte) (rest : List Txn), s.inbox = ⟨r, b, .fail⟩ :: rest →
    step s = .next { s with inbox := rest, ctl := { Controller.powerUp with parser := .unknown, lost := true } }

/-- R257: with nothing presented, in progress or to be received, every piece of state holds its value. That such a step exists is the model's (log entry 3). -/
def Obligations.IdleMachineHoldsItsState : Prop :=
  ∀ s : State, s.inbox = [] → s.seq = .idle → s.port = [] → step s = .next s

/-- R76 ("Every word has an outcome"), R247: every step and every instruction, in every state, gives a next state. -/
def Obligations.NothingStopsTheMachine : Prop :=
  (∀ s : State, ∃ t, step s = .next t) ∧ ∀ (i : Instr) (s : State), ∃ t, exec i s = .next t

/-- R22, R175, R184: while SEQ is BUSY no step takes a presented word, changes REQ, FB, GLYPH or SRCMEM. -/
def Obligations.BusyMachineHoldsPortLatchAndFrame : Prop :=
  ∀ (s t : State) (op : DeviceOp) (k : Nat), s.seq = .busy op k → step s = .next t →
    t.port = s.port ∧ t.req = s.req ∧ t.fb = s.fb ∧ t.glyph = s.glyph ∧ t.mem = s.mem

/-! ### Rasterizer requests -/

/-- R100: a rasterizer request, accepted in every protocol state, completes in one step with OK; it writes only FB and STATUS (and leaves SEQ IDLE), and what it writes to FB depends on FB, GLYPH, SRCMEM and its operands alone. -/
def Obligations.RasterRequestsWriteOnlyFrameAndStatus : Prop :=
  ∀ i : Instr, i.isRaster = true →
    ∃ f : List Byte → List Glyph → List Host.Cell → List Byte, ∀ s : State,
      exec i s = .next { s with
        fb := f s.fb s.glyph s.mem, seq := .idle, status := BitVec.ofNat 32 ((opcodeOf i).toNat * 256) } ∧
      ∀ (w : RequestWord) (rest : List RequestWord),
        s.inbox = [] → s.seq = .idle → s.port = w :: rest → decode (.request w) = .instr i →
        step s = .next { s with
          port := rest, req := w, fb := f s.fb s.glyph s.mem, status := BitVec.ofNat 32 ((opcodeOf i).toNat * 256) }

/-- R101, R102: SETPIXEL changes one bit of one byte, or nothing outside the panel. -/
def Obligations.SetPixelWritesOneBit : Prop :=
  ∀ (s : State) (x y : Int) (color : Byte), s.fb.length = 1024 →
    ∃ fb, exec (.setPixel x y color) s = .next { s with fb := fb, seq := .idle, status := 0x00000100#32 } ∧
      fb.length = 1024 ∧
      (0 ≤ x → x < 128 → 0 ≤ y → y < 64 → ∀ i, Fb.byteAt fb i =
        if i = y.toNat / 8 * 128 + x.toNat then
          (if color = 0#8 then Fb.byteAt s.fb i &&& ~~~(1#8 <<< (y.toNat % 8)) else Fb.byteAt s.fb i ||| (1#8 <<< (y.toNat % 8)))
        else Fb.byteAt s.fb i) ∧
      (x < 0 ∨ 128 ≤ x ∨ y < 0 ∨ 64 ≤ y → fb = s.fb)

/-- R103: set then clear leaves the pixel off; no other pixel changes; two SETPIXELs at distinct pixels commute; outside the panel every byte stays. -/
def Obligations.SetPixelHasNoCrossTalk : Prop :=
  ∀ (s : State) (x y u v : Int) (c d : Byte), s.fb.length = 1024 → InPanel x y → InPanel u v →
    (c ≠ 0#8 → ∃ s1 s2, exec (.setPixel x y c) s = .next s1 ∧ exec (.setPixel x y 0#8) s1 = .next s2 ∧
      Fb.pixelOf s1.fb x y = true ∧ Fb.pixelOf s2.fb x y = false) ∧
    ((x, y) ≠ (u, v) → ∃ s1, exec (.setPixel x y c) s = .next s1 ∧ Fb.pixelOf s1.fb u v = Fb.pixelOf s.fb u v) ∧
    ((x, y) ≠ (u, v) → ∃ s1 s2 t1 t2, exec (.setPixel x y c) s = .next s1 ∧ exec (.setPixel u v d) s1 = .next s2 ∧
      exec (.setPixel u v d) s = .next t1 ∧ exec (.setPixel x y c) t1 = .next t2 ∧ s2 = t2) ∧
    (∀ p q : Int, ¬ InPanel p q → ∃ s1, exec (.setPixel p q c) s = .next s1 ∧ s1.fb = s.fb)

/-- R104, R105: FILLFB and CLEARFB write every byte, whatever FB held. -/
def Obligations.FillAndClearWriteEveryByte : Prop :=
  ∀ s : State,
    exec .fillFb s = .next { s with fb := List.replicate 1024 0xFF#8, seq := .idle, status := 0x00000600#32 } ∧
    exec .clearFb s = .next { s with fb := List.replicate 1024 0x00#8, seq := .idle, status := 0x00000700#32 }

/-- R106: after CLEARFB every in-panel pixel is off, after FILLFB every one is lit, and these are the only such frame buffers. -/
def Obligations.FillAndClearSettleEveryPixel : Prop :=
  ∀ s : State, ∃ t u, exec .clearFb s = .next t ∧ exec .fillFb s = .next u ∧
    (∀ x y, InPanel x y → Fb.pixelOf t.fb x y = false) ∧ (∀ x y, InPanel x y → Fb.pixelOf u.fb x y = true) ∧
    (∀ fb : List Byte, fb.length = 1024 → (∀ x y, InPanel x y → Fb.pixelOf fb x y = true) → fb = u.fb) ∧
    (∀ fb : List Byte, fb.length = 1024 → (∀ x y, InPanel x y → Fb.pixelOf fb x y = false) → fb = t.fb)

/-- R124, R120: DRAWLINE lights exactly the in-panel positions of its walk and clears nothing. -/
def Obligations.DrawLineLightsItsPositions : Prop :=
  ∀ (s : State) (x0 y0 x1 y1 : Int), s.fb.length = 1024 →
    ∃ fb, exec (.drawLine x0 y0 x1 y1) s = .next { s with fb := fb, seq := .idle, status := 0x00000200#32 } ∧
      fb.length = 1024 ∧
      ∀ u v, InPanel u v → (Fb.pixelOf fb u v = true ↔ Fb.pixelOf s.fb u v = true ∨ (u, v) ∈ linePositions x0 y0 x1 y1)

/-- R123: the walk of a line, for every pair of endpoints: its length, no repeats, from the canonical first endpoint to the second, 8-connected, minimal. -/
def Obligations.LineWalkIsAMinimalPath : Prop :=
  ∀ x0 y0 x1 y1 : Int,
    let first := if x0 < x1 ∨ (x0 = x1 ∧ y0 ≤ y1) then (x0, y0) else (x1, y1)
    let last := if x0 < x1 ∨ (x0 = x1 ∧ y0 ≤ y1) then (x1, y1) else (x0, y0)
    (linePositions x0 y0 x1 y1).length = max (x1 - x0).natAbs (y1 - y0).natAbs + 1 ∧
    (linePositions x0 y0 x1 y1).Nodup ∧
    IsPath first last (linePositions x0 y0 x1 y1) ∧
    ∀ l, IsPath first last l → max (x1 - x0).natAbs (y1 - y0).natAbs + 1 ≤ l.length

/-- R121, R126: DRAWLINE does the same with its endpoints swapped; one point is one pixel; the top row is 128 pixels. -/
def Obligations.DrawLineIsSymmetric : Prop :=
  (∀ (s : State) (x0 y0 x1 y1 : Int), exec (.drawLine x0 y0 x1 y1) s = exec (.drawLine x1 y1 x0 y0) s) ∧
  (∀ s : State, s.fb = List.replicate 1024 0#8 → ∃ t, exec (.drawLine 0 0 0 0) s = .next t ∧
    ∀ i, i < 1024 → Fb.byteAt t.fb i = if i = 0 then 0x01#8 else 0x00#8) ∧
  (∀ s : State, s.fb = List.replicate 1024 0#8 → ∃ t, exec (.drawLine 0 0 127 0) s = .next t ∧
    ∀ i, i < 1024 → Fb.byteAt t.fb i = if i < 128 then 0x01#8 else 0x00#8)

/-- R120, R122, R125: the loop of a line, pass by pass. `pass` is R120's pass after its exit test, with one `e2` for both comparisons; after `n` passes, as many as the loop makes, the position is the walk's position `n`, one more pass makes the next one unless it is the last, and the exit test holds exactly at the last. The position is in the endpoints' bounding box, `err` in `-2*dy .. 2*dx` and its double in `-4*dy .. 4*dx`; with 16-bit endpoints `dx` and `dy` are at most 65535 and the doubled error is in `-262140 .. 262140`. -/
def Obligations.LineArithmeticStaysInBounds : Prop :=
  ∀ (x0 y0 x1 y1 : Int) (n : Nat), n ≤ max (x1 - x0).natAbs (y1 - y0).natAbs →
    let first := if x0 < x1 ∨ (x0 = x1 ∧ y0 ≤ y1) then (x0, y0) else (x1, y1)
    let last := if x0 < x1 ∨ (x0 = x1 ∧ y0 ≤ y1) then (x1, y1) else (x0, y0)
    let dx : Int := |x1 - x0|
    let dy : Int := |y1 - y0|
    let sx : Int := if first.1 < last.1 then 1 else -1
    let sy : Int := if first.2 < last.2 then 1 else -1
    let pass : Int × Int × Int → Int × Int × Int := fun q =>
      let e2 := 2 * q.2.2
      (if e2 > -dy then q.1 + sx else q.1,
        if e2 < dx then q.2.1 + sy else q.2.1,
        q.2.2 - (if e2 > -dy then dy else 0) + (if e2 < dx then dx else 0))
    let p := pass^[n] (first.1, first.2, dx - dy)
    (linePositions x0 y0 x1 y1)[n]? = some (p.1, p.2.1) ∧
    (linePositions x0 y0 x1 y1)[n + 1]? =
      (if p.1 = last.1 ∧ p.2.1 = last.2 then none else some ((pass p).1, (pass p).2.1)) ∧
    ((p.1 = last.1 ∧ p.2.1 = last.2) ↔ n = max (x1 - x0).natAbs (y1 - y0).natAbs) ∧
    min x0 x1 ≤ p.1 ∧ p.1 ≤ max x0 x1 ∧ min y0 y1 ≤ p.2.1 ∧ p.2.1 ≤ max y0 y1 ∧
    -2 * dy ≤ p.2.2 ∧ p.2.2 ≤ 2 * dx ∧ -4 * dy ≤ 2 * p.2.2 ∧ 2 * p.2.2 ≤ 4 * dx ∧
    (coordOk x0 = true → coordOk y0 = true → coordOk x1 = true → coordOk y1 = true →
      dx ≤ 65535 ∧ dy ≤ 65535 ∧ -262140 ≤ 2 * p.2.2 ∧ 2 * p.2.2 ≤ 262140)

/-- R140, R141, R142: DRAWCHAR lights exactly the in-panel pixels under the set bits of the glyph of a code in 32..127, least significant bit at the top, and clears nothing; any other code draws nothing. -/
def Obligations.DrawCharLightsItsGlyph : Prop :=
  ∀ (s : State) (x y : Int) (ch : Byte), s.fb.length = 1024 → s.glyph.length = 96 →
    ∃ fb, exec (.drawChar x y ch) s = .next { s with fb := fb, seq := .idle, status := 0x00000300#32 } ∧
      fb.length = 1024 ∧
      ∀ u v, InPanel u v → (Fb.pixelOf fb u v = true ↔ Fb.pixelOf s.fb u v = true ∨
        ∃ (g : Glyph) (col row : Nat), 32 ≤ ch.toNat ∧ ch.toNat ≤ 127 ∧ s.glyph[ch.toNat - 32]? = some g ∧ col < 5 ∧ row < 8 ∧
          ([g.c0, g.c1, g.c2, g.c3, g.c4].getD col 0#8).getLsbD row = true ∧ u = x + col ∧ v = y + row)

/-- R143, R145: DRAWSTRING draws character `k`, read at `(src + k) mod 2^32`, at `x + 6*k`, whatever the other characters are. -/
def Obligations.DrawStringLightsItsGlyphs : Prop :=
  ∀ (s : State) (x y : Int) (src : BitVec 32) (len : Nat), s.fb.length = 1024 → s.glyph.length = 96 →
    ∃ fb, exec (.drawString x y src len) s = .next { s with fb := fb, seq := .idle, status := 0x00000400#32 } ∧
      fb.length = 1024 ∧
      ∀ u v, InPanel u v → (Fb.pixelOf fb u v = true ↔ Fb.pixelOf s.fb u v = true ∨
        ∃ (k : Nat) (g : Glyph) (col row : Nat), k < len ∧
          32 ≤ (Memory.read s.mem (BitVec.ofNat 32 (src.toNat + k))).toNat ∧
          (Memory.read s.mem (BitVec.ofNat 32 (src.toNat + k))).toNat ≤ 127 ∧
          s.glyph[(Memory.read s.mem (BitVec.ofNat 32 (src.toNat + k))).toNat - 32]? = some g ∧ col < 5 ∧ row < 8 ∧
          ([g.c0, g.c1, g.c2, g.c3, g.c4].getD col 0#8).getLsbD row = true ∧ u = x + 6 * k + col ∧ v = y + row)

/-- R146, R147: DRAWBITMAP lights exactly the in-panel pixels under the set bits of the image, most significant bit first in rows of `ceil(w/8)` bytes, and clears nothing. -/
def Obligations.DrawBitmapLightsItsBits : Prop :=
  ∀ (s : State) (x y : Int) (src : BitVec 32) (w h : Nat), s.fb.length = 1024 →
    ∃ fb, exec (.drawBitmap x y src w h) s = .next { s with fb := fb, seq := .idle, status := 0x00000500#32 } ∧
      fb.length = 1024 ∧
      ∀ u v, InPanel u v → (Fb.pixelOf fb u v = true ↔ Fb.pixelOf s.fb u v = true ∨
        ∃ col row : Nat, col < w ∧ row < h ∧ u = x + col ∧ v = y + row ∧
          (Memory.read s.mem (BitVec.ofNat 32 (src.toNat + row * ((w + 7) / 8) + col / 8))).getLsbD (7 - col % 8) = true)

/-- R148: a full-panel bitmap of 1024 bytes of 0xFF leaves FB as FILLFB does, from any FB. -/
def Obligations.FullBitmapEqualsFill : Prop :=
  ∀ (s : State) (src : BitVec 32), s.fb.length = 1024 →
    (∀ j, j < 1024 → Memory.read s.mem (BitVec.ofNat 32 (src.toNat + j)) = 0xFF#8) →
    ∃ t u, exec (.drawBitmap 0 0 src 128 64) s = .next t ∧ exec .fillFb s = .next u ∧ t.fb = u.fb

/-! ### Device requests -/

/-- R174, R243, R182: in UNINIT the device requests other than INIT report PROTOCOL_MISUSE and change nothing else; INIT raises no misuse in any protocol state. That INIT's acceptance is a step of its own, which moves SEQ to BUSY(init, 0) and changes nothing else, is the model's reading (log entry 1, DEDUCED). -/
def Obligations.MisuseIsReportedBeforeAnyTransaction : Prop :=
  ∀ s : State, s.seq = .idle →
    exec .init s = .next { s with seq := .busy .init 0 } ∧
    (s.pstate = .uninit →
      exec .display s = .next { s with status := 0x00001102#32 } ∧
      (∀ level, exec (.setBrightness level) s = .next { s with status := 0x00001202#32 }) ∧
      exec .fillDisplay s = .next { s with status := 0x00001302#32 } ∧
      exec .clearDisplay s = .next { s with status := 0x00001402#32 })

/-- R21, R182, R190: an accepted device request moves SEQ from IDLE to BUSY(op, 0); INIT in both protocol states, the others in ACTIVE. That this is a step of its own, which emits nothing and changes nothing else, is the model's reading (log entry 1, DEDUCED): the spec does not say whether the first bus write belongs to the acceptance, and R277 lists no such step. -/
def Obligations.AcceptedDeviceRequestsStart : Prop :=
  ∀ s : State, s.seq = .idle →
    exec .init s = .next { s with seq := .busy .init 0 } ∧
    (s.pstate = .active →
      exec .display s = .next { s with seq := .busy .display 0 } ∧
      (∀ level, exec (.setBrightness level) s = .next { s with seq := .busy .setBrightness 0 }) ∧
      exec .fillDisplay s = .next { s with seq := .busy .fillDisplay 0 } ∧
      exec .clearDisplay s = .next { s with seq := .busy .clearDisplay 0 })

/-- R170, R172: a bus write answered `ok` that is not the last of its request: the transaction and its answer go to TRACE (and to the controller), `k` advances, nothing else changes. The fields `answers`, `draws` and `inbox` are the model's own (log entries 2 and 5). -/
def Obligations.AnsweredTransactionAdvancesTheRequest : Prop :=
  ∀ (s : State) (op : DeviceOp) (k : Nat) (b : BusByte), s.seq = .busy op k → (requestTxns op s)[k]? = some b →
    k + 1 < (requestTxns op s).length → s.nextAnswer = .ok →
    exec (op.instr s.req) s = .next { s with
      seq := .busy op (k + 1), trace := s.trace ++ [⟨b.reg, b.byte, .ok⟩], inbox := s.inbox ++ [⟨b.reg, b.byte, .ok⟩],
      answers := s.answers.tail, draws := s.draws + 1 }

/-- R242, R173: transaction `k` answered `fail` ends the request with TRANSPORT_FAILURE and INFO k; FB stays. PSTATE and the shadows change per operation (R181, R183, R187, R195, R196), and the controller becomes LOST (R222). That it becomes so in the very next step is the model's (log entry 2, DESIGN CHOICE), and so are the fields `answers`, `draws` and `inbox` (log entries 2 and 5, DESIGN CHOICE). -/
def Obligations.TransportFailureEndsTheRequest : Prop :=
  ∀ (s : State) (op : DeviceOp) (k : Nat) (b : BusByte), s.Inv → s.seq = .busy op k → (requestTxns op s)[k]? = some b →
    s.nextAnswer = .fail →
    ∃ t, exec (op.instr s.req) s = .next t ∧
      t = { s with
        seq := .idle, status := BitVec.ofNat 32 (k * 65536 + op.code.toNat * 256 + 1),
        trace := s.trace ++ [⟨b.reg, b.byte, .fail⟩], inbox := s.inbox ++ [⟨b.reg, b.byte, .fail⟩],
        answers := s.answers.tail, draws := s.draws + 1,
        pstate := t.pstate, contrast := t.contrast, addrMode := t.addrMode, power := t.power, dispSrc := t.dispSrc } ∧
      (op = .init → t.pstate = .uninit ∧ t.contrast = .unknown ∧ t.addrMode = .unknown ∧ t.power = .unknown ∧ t.dispSrc = .unknown) ∧
      (op ≠ .init → t.pstate = s.pstate ∧ t.addrMode = s.addrMode ∧ t.power = s.power) ∧
      (op = .display → t.contrast = s.contrast ∧ t.dispSrc = s.dispSrc) ∧
      (op = .setBrightness → t.contrast = .unknown ∧ t.dispSrc = s.dispSrc) ∧
      (op = .fillDisplay ∨ op = .clearDisplay → t.contrast = s.contrast ∧ t.dispSrc = .unknown) ∧
      (s.inbox = [] → ∃ u, step t = .next u ∧ u.ctl.lost = true)

/-- R176, R170: the last transaction of INIT answered `ok`: the transaction in TRACE, STATUS OK, ACTIVE (R180) and the four shadows (R179). The fields `answers`, `draws` and `inbox` are the model's own (log entries 2 and 5, DESIGN CHOICE). -/
def Obligations.SuccessfulInitActivates : Prop :=
  ∀ s : State, s.seq = .busy .init 21 → s.nextAnswer = .ok →
    exec .init s = .next { s with
      seq := .idle, pstate := .active, contrast := .known 0x10#8, addrMode := .known .horizontal, power := .known .on,
      dispSrc := .known .buffer, status := 0x00001000#32,
      trace := s.trace ++ [⟨.command, 0xAF#8, .ok⟩], inbox := s.inbox ++ [⟨.command, 0xAF#8, .ok⟩],
      answers := s.answers.tail, draws := s.draws + 1 }

/-- 43_device_protocol.md (R183, R187, R195, R196): the last transaction of the other device requests answered `ok`. The fields `answers`, `draws` and `inbox` are the model's own (log entries 2 and 5). -/
def Obligations.SuccessfulDeviceRequestsComplete : Prop :=
  (∀ s : State, s.fb.length = 1024 → s.seq = .busy .display 1029 → s.nextAnswer = .ok →
    exec .display s = .next { s with
      seq := .idle, status := 0x00001100#32,
      trace := s.trace ++ [⟨.data, Fb.byteAt s.fb 1023, .ok⟩], inbox := s.inbox ++ [⟨.data, Fb.byteAt s.fb 1023, .ok⟩],
      answers := s.answers.tail, draws := s.draws + 1 }) ∧
  (∀ (s : State) (level : Byte), s.seq = .busy .setBrightness 1 → s.nextAnswer = .ok →
    exec (.setBrightness level) s = .next { s with
      seq := .idle, contrast := .known level, status := 0x00001200#32,
      trace := s.trace ++ [⟨.command, level, .ok⟩], inbox := s.inbox ++ [⟨.command, level, .ok⟩],
      answers := s.answers.tail, draws := s.draws + 1 }) ∧
  (∀ s : State, s.seq = .busy .fillDisplay 0 → s.nextAnswer = .ok →
    exec .fillDisplay s = .next { s with
      seq := .idle, dispSrc := .known .forcedOn, status := 0x00001300#32,
      trace := s.trace ++ [⟨.command, pFillDisplayCmd, .ok⟩], inbox := s.inbox ++ [⟨.command, pFillDisplayCmd, .ok⟩],
      answers := s.answers.tail, draws := s.draws + 1 }) ∧
  (∀ s : State, s.seq = .busy .clearDisplay 0 → s.nextAnswer = .ok →
    exec .clearDisplay s = .next { s with
      seq := .idle, dispSrc := .known .forcedOff, status := 0x00001400#32,
      trace := s.trace ++ [⟨.command, pClearDisplayCmd, .ok⟩], inbox := s.inbox ++ [⟨.command, pClearDisplayCmd, .ok⟩],
      answers := s.answers.tail, draws := s.draws + 1 })

/-- R172, R62: the steps of a device request put on the bus exactly what `Send` says, for every answer sequence: its transactions in order up to the first `fail`. STATUS tells which (R173), the controller receives them in order (R210), and what a request in progress leaves is R22's and R175's. The count of steps, one bus write and one reception per transaction, is the model's (log entries 1 and 2). -/
def Obligations.RequestStepsRefineSend : Prop :=
  ∀ (s : State) (op : DeviceOp) (ans more : List Answer),
    s.Inv → s.seq = .busy op 0 → s.inbox = [] → s.answers = ans ++ more → ans.length = (requestTxns op s).length →
    ∃ t, runs (2 * (sendTrace (requestTxns op s) ans).length) s = .next t ∧
      t.seq = .idle ∧ t.inbox = [] ∧ t.trace = s.trace ++ sendTrace (requestTxns op s) ans ∧
      t.ctl = s.ctl.afterAll (sendTrace (requestTxns op s) ans) ∧
      t.fb = s.fb ∧ t.port = s.port ∧ t.req = s.req ∧ t.glyph = s.glyph ∧ t.mem = s.mem ∧
      t.status =
        if allOk (sendTrace (requestTxns op s) ans) then Status.pack 0#16 op.code Status.OK
        else Status.pack (BitVec.ofNat 16 ((sendTrace (requestTxns op s) ans).length - 1)) op.code Status.TRANSPORT_FAILURE

/-- R176, 95_test_vectors.md 2.8 and 2.12: an accepted INIT answered `ok` throughout emits exactly the 22 listed command bytes and leaves the block ACTIVE and the controller configured, also a controller forced off, whose ENTIRE is UNKNOWN after 0xAE (R214) and RAM after 0xA4 (R220). The count of steps is the model's (log entries 1 and 2). -/
def Obligations.InitConfiguresTheController : Prop :=
  ∀ (s : State) (w : RequestWord) (rest : List RequestWord) (more : List Answer),
    s.seq = .idle → s.inbox = [] → s.port = w :: rest → decode (.request w) = .instr .init →
    s.answers = List.replicate 22 .ok ++ more → s.ctl.lost = false → s.ctl.parser = .idle →
    runs 45 s = .next { s with
      port := rest, req := w, answers := more, draws := s.draws + 22, pstate := .active, contrast := .known 0x10#8,
      addrMode := .known .horizontal, power := .known .on, dispSrc := .known .buffer, status := 0x00001000#32,
      trace := s.trace ++ [0xAE#8, 0x20#8, 0x00#8, 0x81#8, 0x10#8, 0xA1#8, 0xA8#8, 0x3F#8, 0xC8#8, 0xD3#8, 0x00#8,
        0xD5#8, 0x80#8, 0xD9#8, 0x22#8, 0xDA#8, 0x12#8, 0xDB#8, 0x20#8, 0xA4#8, 0xA6#8, 0xAF#8].map (fun b => ⟨.command, b, .ok⟩),
      ctl := { s.ctl with
        dispOn := .known .on, mode := .known .horizontal, contrast := .known 0x10#8, segRemap := .known .set,
        mux := .known 0x3F#8, comRemap := .known .set, offset := .known 0x00#8, clkdiv := .known 0x80#8,
        precharge := .known 0x22#8, compins := .known 0x12#8, vcomh := .known 0x20#8, entire := .known .ram,
        invert := .known .normal } }

/-- R185, R184, R225: an accepted DISPLAY answered `ok` throughout emits the two window triples and then FB as it stood, byte by byte, and leaves the controller's display memory equal to FB. That the pointers end at 0 rests on general knowledge (44 R218, R225; log entry 21). The count of steps is the model's (log entries 1 and 2). -/
def Obligations.DisplayFillsTheControllersMemory : Prop :=
  ∀ (s : State) (w : RequestWord) (rest : List RequestWord) (more : List Answer),
    s.Inv → s.seq = .idle → s.inbox = [] → s.port = w :: rest → decode (.request w) = .instr .display →
    s.pstate = .active → s.answers = List.replicate 1030 .ok ++ more →
    s.ctl.lost = false → s.ctl.parser = .idle → s.ctl.mode = .known .horizontal →
    runs 2061 s = .next { s with
      port := rest, req := w, answers := more, draws := s.draws + 1030, status := 0x00001100#32,
      trace := s.trace ++ [0x21#8, 0x00#8, 0x7F#8, 0x22#8, 0x00#8, 0x07#8].map (fun b => ⟨.command, b, .ok⟩) ++
        s.fb.map (fun b => ⟨.data, b, .ok⟩),
      ctl := { s.ctl with
        ram := s.fb.map .known, cs := .known 0, ce := .known 127, ps := .known 0, pe := .known 7,
        col := .known 0, page := .known 0 } }

/-- R188: an accepted SETBRIGHTNESS answered `ok` emits 0x81 then the level and nothing else. CONTRAST and STATUS are R187's, and that the controller records the level is R216's. The count of steps is the model's (log entries 1 and 2). -/
def Obligations.BrightnessEmitsTwoCommandBytes : Prop :=
  ∀ (s : State) (w : RequestWord) (rest : List RequestWord) (more : List Answer) (level : Byte),
    s.seq = .idle → s.inbox = [] → s.port = w :: rest → decode (.request w) = .instr (.setBrightness level) →
    s.pstate = .active → s.answers = .ok :: .ok :: more → s.ctl.lost = false → s.ctl.parser = .idle →
    runs 5 s = .next { s with
      port := rest, req := w, answers := more, draws := s.draws + 2, contrast := .known level, status := 0x00001200#32,
      trace := s.trace ++ [⟨.command, 0x81#8, .ok⟩, ⟨.command, level, .ok⟩],
      ctl := { s.ctl with contrast := .known level } }

/-- R195, R196, R223: an accepted FILLDISPLAY or CLEARDISPLAY answered `ok` emits its one open command byte, leaves FB, and forces the panel on or off. The count of steps is the model's (log entries 1 and 2). -/
def Obligations.BypassRequestsForceThePanel : Prop :=
  ∀ (s : State) (w : RequestWord) (rest : List RequestWord) (more : List Answer),
    s.seq = .idle → s.inbox = [] → s.port = w :: rest → s.pstate = .active → s.answers = .ok :: more →
    s.ctl.lost = false → s.ctl.parser = .idle →
    (decode (.request w) = .instr .fillDisplay → runs 3 s = .next { s with
      port := rest, req := w, answers := more, draws := s.draws + 1, dispSrc := .known .forcedOn, status := 0x00001300#32,
      trace := s.trace ++ [⟨.command, pFillDisplayCmd, .ok⟩], ctl := { s.ctl with entire := .known .forcedOn } }) ∧
    (decode (.request w) = .instr .clearDisplay → runs 3 s = .next { s with
      port := rest, req := w, answers := more, draws := s.draws + 1, dispSrc := .known .forcedOff, status := 0x00001400#32,
      trace := s.trace ++ [⟨.command, pClearDisplayCmd, .ok⟩], ctl := { s.ctl with entire := .known .forcedOff } })

/-- R25, 43_device_protocol.md R190, R181: PSTATE changes only where INIT ends: to ACTIVE when its last write is answered `ok`, to UNINIT when a write is answered `fail`. That nothing waits for the controller at such a step (`s.inbox = []`) is the model's (log entry 2, DESIGN CHOICE), not the rules'. -/
def Obligations.OnlyInitChangesTheProtocolState : Prop :=
  ∀ s t : State, s.Inv → step s = .next t → t.pstate ≠ s.pstate →
    s.inbox = [] ∧ t.seq = .idle ∧ ∃ k, s.seq = .busy .init k ∧
      ((k = 21 ∧ s.nextAnswer = .ok ∧ t.pstate = .active) ∨ (s.nextAnswer = .fail ∧ t.pstate = .uninit))

/-- R29, R171, R177: a step adds at most one transaction to TRACE, the next of the request in progress; a data-register byte is only ever DISPLAY's, `FB[k-6]` at position `k >= 6`. -/
def Obligations.TraceGrowsByTheRequestsTransactions : Prop :=
  ∀ s t : State, s.Inv → step s = .next t → t.trace ≠ s.trace →
    ∃ (op : DeviceOp) (k : Nat) (b : BusByte) (a : Answer), s.seq = .busy op k ∧ (requestTxns op s)[k]? = some b ∧
      t.trace = s.trace ++ [⟨b.reg, b.byte, a⟩] ∧
      (b.reg = .data → op = .display ∧ 6 ≤ k ∧ k ≤ 1029 ∧ b.byte = Fb.byteAt s.fb (k - 6))

/-- R27: the configuration shadows change only where a device request ends: CONTRAST by INIT and SETBRIGHTNESS, ADDR_MODE and POWER by INIT, DISP_SRC by INIT, FILLDISPLAY and CLEARDISPLAY. -/
def Obligations.ShadowsChangeOnlyByTheirRequests : Prop :=
  ∀ s t : State, step s = .next t →
    (t.contrast ≠ s.contrast → ∃ k, s.seq = .busy .init k ∨ s.seq = .busy .setBrightness k) ∧
    (t.addrMode ≠ s.addrMode ∨ t.power ≠ s.power → ∃ k, s.seq = .busy .init k) ∧
    (t.dispSrc ≠ s.dispSrc → ∃ k, s.seq = .busy .init k ∨ s.seq = .busy .fillDisplay k ∨ s.seq = .busy .clearDisplay k)

/-! ### The controller -/

/-- R216, R217, R219: the commands that record a value record it and change nothing else. -/
def Obligations.RecordingCommandsRecord : Prop :=
  ∀ (s : State) (v : Byte), s.ctl.lost = false →
    exec (.setContrast v) s = .next { s with ctl := { s.ctl with contrast := .known v } } ∧
    exec .setSegmentRemap s = .next { s with ctl := { s.ctl with segRemap := .known .set } } ∧
    exec .setComScanRemapped s = .next { s with ctl := { s.ctl with comRemap := .known .set } } ∧
    exec (.setMultiplexRatio v) s = .next { s with ctl := { s.ctl with mux := .known v } } ∧
    exec (.setDisplayOffset v) s = .next { s with ctl := { s.ctl with offset := .known v } } ∧
    exec (.setComPins v) s = .next { s with ctl := { s.ctl with compins := .known v } } ∧
    exec (.setClockDivide v) s = .next { s with ctl := { s.ctl with clkdiv := .known v } } ∧
    exec (.setPrechargePeriod v) s = .next { s with ctl := { s.ctl with precharge := .known v } } ∧
    exec (.setVcomhDeselect v) s = .next { s with ctl := { s.ctl with vcomh := .known v } }

/-- R214, R215, R220: display on and off, the addressing mode, resume from RAM and normal display. That LOST leaves every other field UNKNOWN is R213's, and that the parser is among them log entry 13 (DEDUCED). -/
def Obligations.DisplayModeCommandsAct : Prop :=
  ∀ (s : State) (m : Byte), s.ctl.lost = false →
    (s.ctl.entire ≠ .known .forcedOff →
      exec .displayOff s = .next { s with ctl := { s.ctl with dispOn := .known .off } } ∧
      exec .displayOn s = .next { s with ctl := { s.ctl with dispOn := .known .on } } ∧
      exec .resumeFromRam s = .next { s with ctl := { s.ctl with entire := .known .ram } }) ∧
    (s.ctl.entire = .known .forcedOff →
      exec .displayOff s = .next { s with ctl := { s.ctl with dispOn := .known .off, entire := .unknown } } ∧
      exec .displayOn s = .next { s with ctl := { s.ctl with dispOn := .known .on, entire := .unknown } } ∧
      exec .resumeFromRam s = .next { s with ctl := { s.ctl with entire := .unknown } }) ∧
    exec .normalDisplay s = .next { s with ctl := { s.ctl with invert := .known .normal } } ∧
    exec (.setMemoryAddressingMode 0x00#8) s = .next { s with ctl := { s.ctl with mode := .known .horizontal } } ∧
    (m ≠ 0x00#8 → exec (.setMemoryAddressingMode m) s = .next { s with ctl := Controller.gone })

/-- R221, R223: the window commands set a window and its pointer, or lose the controller; the bypass commands force the panel. That a window command moves the pointer is as R221 marks it (log entry 21); that LOST leaves every other field UNKNOWN is R213's, the parser among them log entry 13 (DEDUCED). -/
def Obligations.WindowAndBypassCommandsAct : Prop :=
  ∀ (s : State) (a b : Byte), s.ctl.lost = false →
    (a.toNat ≤ b.toNat → b.toNat ≤ 127 → exec (.setColumnAddress a b) s = .next { s with
      ctl := { s.ctl with cs := .known a.toNat, ce := .known b.toNat, col := .known a.toNat } }) ∧
    (b.toNat < a.toNat ∨ 127 < b.toNat → exec (.setColumnAddress a b) s = .next { s with ctl := Controller.gone }) ∧
    (a.toNat ≤ b.toNat → b.toNat ≤ 7 → exec (.setPageAddress a b) s = .next { s with
      ctl := { s.ctl with ps := .known a.toNat, pe := .known b.toNat, page := .known a.toNat } }) ∧
    (b.toNat < a.toNat ∨ 7 < b.toNat → exec (.setPageAddress a b) s = .next { s with ctl := Controller.gone }) ∧
    exec .forceEntireOn s = .next { s with ctl := { s.ctl with entire := .known .forcedOn } } ∧
    exec .forceEntireOff s = .next { s with ctl := { s.ctl with entire := .known .forcedOff } }

/-- R218: a data byte is stored at the pointer, which moves column first, then page, each back to its window's start at the window's end; it loses a controller whose parser, mode or pointers do not settle it. The return to the window's start is from general knowledge, as the rule says (log entry 21); that the parser of a LOST controller is unknown too is log entry 13 (DEDUCED). -/
def Obligations.DataByteStoresAndAdvances : Prop :=
  ∀ (s : State) (v : Byte), s.ctl.lost = false →
    (∀ col page cs ce ps pe, s.ctl.parser = .idle → s.ctl.mode = .known .horizontal → s.ctl.col = .known col →
      s.ctl.page = .known page → s.ctl.cs = .known cs → s.ctl.ce = .known ce → s.ctl.ps = .known ps → s.ctl.pe = .known pe →
      exec (.dataByte v) s = .next { s with ctl := { s.ctl with
        ram := s.ctl.ram.set (page * 128 + col) (.known v)
        col := .known (if col < ce then col + 1 else cs)
        page := .known (if col < ce then page else if page < pe then page + 1 else ps) } }) ∧
    (s.ctl.parser ≠ .idle ∨ s.ctl.mode = .unknown ∨ s.ctl.col = .unknown ∨ s.ctl.page = .unknown ∨ s.ctl.cs = .unknown ∨
      s.ctl.ce = .unknown ∨ s.ctl.ps = .unknown ∨ s.ctl.pe = .unknown →
      exec (.dataByte v) s = .next { s with ctl := Controller.gone })

/-- R213: LOST stays: no step and no controller row changes a LOST controller. -/
def Obligations.LostStaysLost : Prop :=
  (∀ s t : State, s.Inv → s.ctl.lost = true → step s = .next t → t.ctl = s.ctl) ∧
  (∀ (i : Instr) (s : State), i.isRequest = false → s.ctl.lost = true → exec i s = .next s)

/-- R226, R225, R50: once the controller's display memory holds FB, the panel shows FB: every in-panel pixel is visible as `PixelOf` has it; and the other cases of the panel view. -/
def Obligations.PanelShowsTheFrameBuffer : Prop :=
  ∀ (c : Controller) (fb : List Byte) (x y : Int), InPanel x y →
    (fb.length = 1024 → c.ram = fb.map .known → c.lost = false → c.dispOn = .known .on → c.entire = .known .ram →
      c.invert = .known .normal → c.visible x y = .known (Fb.pixelOf fb x y)) ∧
    (∀ v, c.lost = false → c.dispOn = .known .on → c.entire = .known .ram → c.invert = .known .normal →
      (c.ram[y.toNat / 8 * 128 + x.toNat]? = some (.known v) → c.visible x y = .known (v.getLsbD (y.toNat % 8))) ∧
      (c.ram[y.toNat / 8 * 128 + x.toNat]? = some .unknown → c.visible x y = .unknown)) ∧
    (c.lost = true ∨ c.dispOn = .unknown ∨ c.entire = .unknown → c.visible x y = .unknown) ∧
    (c.lost = false → c.dispOn = .known .off → c.entire ≠ .unknown → c.visible x y = .known false) ∧
    (c.lost = false → c.dispOn = .known .on → c.entire = .known .forcedOn → c.visible x y = .known true) ∧
    (c.lost = false → c.dispOn = .known .on → c.entire = .known .forcedOff → c.visible x y = .known false) ∧
    (c.lost = false → c.dispOn = .known .on → c.entire = .known .ram → c.invert = .unknown → c.visible x y = .unknown)

/-! ### Invariants -/

/-- The machine's invariant (R23, R21, R174, R26, R240, R213) is kept by every step, from every state that has it. -/
def Obligations.StepKeepsTheInvariant : Prop :=
  ∀ s t : State, s.Inv → step s = .next t → t.Inv

/-- The invariant is kept by every step of the host and by reset. -/
def Obligations.HostStepsKeepTheInvariant : Prop :=
  ∀ (s : State) (h : HostStep), s.Inv → (hostStep h s).Inv

/-- The three invariants hold after reset. -/
def Obligations.InvariantsHoldAtReset : Prop :=
  State.reset.Inv ∧ State.reset.Tracks ∧ State.reset.BusInv

/-- R210: that the controller's state is a function of the transactions it has received, in TRACE order, is kept by every step. -/
def Obligations.ControllerIsAFunctionOfTheTrace : Prop :=
  ∀ s t : State, s.Tracks → step s = .next t → t.Tracks

/-- R279, R191, R80: while no transaction fails, the block never brings the controller into LOST or out of step: between requests its parser is idle, and in ACTIVE its addressing mode is horizontal. Kept by every step. -/
def Obligations.SoundTransportKeepsTheControllerListening : Prop :=
  ∀ s t : State, s.Inv → s.BusInv → step s = .next t → t.BusInv

/-! ### The command table -/

/-- R79, R81, R213: the decoder and `operandCount` know exactly the sixteen listed first bytes and the two open ones, each with its own operands and its own command, and reject every other first byte. -/
def Obligations.CommandTableIsTheListedOne : Prop :=
  (∀ b : Byte, operandCount b =
    if b ∈ [0xAE#8, 0xA1#8, 0xC8#8, 0xA4#8, 0xA6#8, 0xAF#8, pFillDisplayCmd, pClearDisplayCmd] then some 0
    else if b ∈ [0x20#8, 0x81#8, 0xA8#8, 0xD3#8, 0xD5#8, 0xD9#8, 0xDA#8, 0xDB#8] then some 1
    else if b ∈ [0x21#8, 0x22#8] then some 2
    else none) ∧
  (∀ (b : Byte) (ops : List Byte),
    ((∃ i, decode (.command (b :: ops)) = .instr i) ↔ operandCount b = some ops.length) ∧
    (operandCount b = none → decode (.command (b :: ops)) = .reject .unknownCommand)) ∧
  decode (.command []) = .reject .wrongOperandCount ∧
  decode (.command [0xAE#8]) = .instr .displayOff ∧ decode (.command [0xAF#8]) = .instr .displayOn ∧
  decode (.command [0xA1#8]) = .instr .setSegmentRemap ∧ decode (.command [0xC8#8]) = .instr .setComScanRemapped ∧
  decode (.command [0xA4#8]) = .instr .resumeFromRam ∧ decode (.command [0xA6#8]) = .instr .normalDisplay ∧
  decode (.command [pFillDisplayCmd]) = .instr .forceEntireOn ∧ decode (.command [pClearDisplayCmd]) = .instr .forceEntireOff ∧
  ∀ v u : Byte,
    decode (.command [0x20#8, v]) = .instr (.setMemoryAddressingMode v) ∧ decode (.command [0x81#8, v]) = .instr (.setContrast v) ∧
    decode (.command [0xA8#8, v]) = .instr (.setMultiplexRatio v) ∧ decode (.command [0xD3#8, v]) = .instr (.setDisplayOffset v) ∧
    decode (.command [0xD5#8, v]) = .instr (.setClockDivide v) ∧ decode (.command [0xD9#8, v]) = .instr (.setPrechargePeriod v) ∧
    decode (.command [0xDA#8, v]) = .instr (.setComPins v) ∧ decode (.command [0xDB#8, v]) = .instr (.setVcomhDeselect v) ∧
    decode (.command [0x21#8, v, u]) = .instr (.setColumnAddress v u) ∧ decode (.command [0x22#8, v, u]) = .instr (.setPageAddress v u)
end

