-- ==== Sys2Proof/Laws/Encoding.lean ====
section
/-! SUPPORT. The fields of a packed request word, the operand fields, and the two open command bytes. -/
namespace Sys2Proof

open Sys2Proof.Machine in
/-- A slice of a request word as a number. -/
theorem toNat_slice (w : RequestWord) (lo len : Nat) : (w.extractLsb' lo len).toNat = fieldOf w lo len := by
  rw [fieldOf, BitVec.extractLsb'_toNat, Nat.shiftRight_eq_div_pow]

open Sys2Proof.Machine in
/-- A slice of a request word from its number. -/
theorem slice_eq (w : RequestWord) (lo len : Nat) : w.extractLsb' lo len = BitVec.ofNat len (fieldOf w lo len) := by
  rw [← toNat_slice, BitVec.ofNat_toNat, BitVec.setWidth_eq]

open Sys2Proof.Machine in
/-- Sign extension as a case on the unsigned value. -/
theorem sext16_eq (v : BitVec 16) : sext16 v = signed16 v.toNat := by
  have := v.isLt
  unfold sext16 signed16
  rw [BitVec.toInt_eq_toNat_cond]
  split <;> split <;> omega

@[simp] theorem reqOp_packRequest (op k : Byte) (a b c d : BitVec 16) (s : BitVec 32) : reqOp (packRequest op k a b c d s) = op := by
  ext i hi; simp [reqOp, packRequest]; try grind
@[simp] theorem reqK_packRequest (op k : Byte) (a b c d : BitVec 16) (s : BitVec 32) : reqK (packRequest op k a b c d s) = k := by
  ext i hi; simp [reqK, packRequest]; try grind
@[simp] theorem reqA_packRequest (op k : Byte) (a b c d : BitVec 16) (s : BitVec 32) : reqA (packRequest op k a b c d s) = a := by
  ext i hi; simp [reqA, packRequest]; try grind
@[simp] theorem reqB_packRequest (op k : Byte) (a b c d : BitVec 16) (s : BitVec 32) : reqB (packRequest op k a b c d s) = b := by
  ext i hi; simp [reqB, packRequest]; try grind
@[simp] theorem reqC_packRequest (op k : Byte) (a b c d : BitVec 16) (s : BitVec 32) : reqC (packRequest op k a b c d s) = c := by
  ext i hi; simp [reqC, packRequest]; try grind
@[simp] theorem reqD_packRequest (op k : Byte) (a b c d : BitVec 16) (s : BitVec 32) : reqD (packRequest op k a b c d s) = d := by
  ext i hi; simp [reqD, packRequest]; try grind
@[simp] theorem reqS_packRequest (op k : Byte) (a b c d : BitVec 16) (s : BitVec 32) : reqS (packRequest op k a b c d s) = s := by
  ext i hi; simp [reqS, packRequest]; try grind
@[simp] theorem reqRsv_packRequest (op k : Byte) (a b c d : BitVec 16) (s : BitVec 32) : reqRsv (packRequest op k a b c d s) = 0#16 := by
  unfold reqRsv packRequest
  ext i hi
  simp only [BitVec.getElem_extractLsb', BitVec.getLsbD_append]
  repeat rw [if_neg (by omega)]
  simp

/-- A coordinate in range is read back from its field. -/
theorem sext16_coordField {x : Int} (h : coordOk x = true) : sext16 (coordField x) = x := by
  simp only [coordOk, Bool.and_eq_true, decide_eq_true_eq] at h
  simp only [sext16, coordField, BitVec.toInt_ofInt, Int.bmod]
  omega

/-- A field read as a coordinate is in range. -/
theorem coordOk_sext16 (v : BitVec 16) : coordOk (sext16 v) = true := by
  have h1 := v.le_toInt (w := 16)
  have h2 := v.toInt_lt (w := 16)
  unfold coordOk sext16
  exact Bool.and_eq_true_iff.2 ⟨decide_eq_true (by omega), decide_eq_true (by omega)⟩

/-- A length or dimension in range is read back from its field. -/
theorem zext16_dimField {n : Nat} (h : dimOk n = true) : zext16 (dimField n) = n := by
  simp only [dimOk, decide_eq_true_eq] at h
  simp only [zext16, dimField, BitVec.toNat_ofNat]
  omega

/-- A field read as a length or dimension is in range. -/
theorem dimOk_zext16 (v : BitVec 16) : dimOk (zext16 v) = true := by
  unfold dimOk zext16
  exact decide_eq_true v.isLt

/-- A fixed first byte's row is in the table. -/
theorem mem_fixedTable {b : Byte} {sh : CommandShape} (h : fixedShape b = some sh) : (b, sh) ∈ fixedTable := by
  have key : ∀ l : List (Byte × CommandShape), l.lookup b = some sh → (b, sh) ∈ l := by
    intro l
    induction l with
    | nil => simp
    | cons r l ih =>
      obtain ⟨c, r⟩ := r
      simp only [List.lookup]
      split
      · next he => rw [beq_iff_eq] at he; rintro ⟨rfl⟩; simp [he]
      · intro hl; exact List.mem_cons_of_mem _ (ih hl)
  exact key _ h

theorem length_freeFirstBytes : freeFirstBytes.length = 240 := by decide +kernel

theorem getD_mod_mem (l : List Byte) (h : 0 < l.length) (n : Nat) : l.getD (n % l.length) 0#8 ∈ l := by
  rw [List.getD_eq_getElem?_getD, List.getElem?_eq_getElem (Nat.mod_lt _ h), Option.getD_some]
  exact List.getElem_mem _

theorem fixedShape_of_free {b : Byte} (h : b ∈ freeFirstBytes) : fixedShape b = none := by
  simpa [freeFirstBytes] using (List.mem_filter.1 h).2

theorem pFillDisplayCmd_free : pFillDisplayCmd ∈ freeFirstBytes :=
  getD_mod_mem _ (by rw [length_freeFirstBytes]; decide) _

theorem nodup_freeFirstBytes : freeFirstBytes.Nodup := by
  refine List.Nodup.filter _ (List.Nodup.map_on ?_ List.nodup_range)
  intro x hx y hy h
  have := congrArg BitVec.toNat h
  simp only [List.mem_range, BitVec.toNat_ofNat] at *
  omega

theorem pClearDisplayCmd_mem : pClearDisplayCmd ∈ freeFirstBytes.erase pFillDisplayCmd := by
  refine getD_mod_mem _ ?_ _
  rw [List.length_erase_of_mem pFillDisplayCmd_free, length_freeFirstBytes]
  decide

/-- The two open bytes are no fixed first byte, and differ (D21). -/
theorem fixedShape_pFillDisplayCmd : fixedShape pFillDisplayCmd = none := fixedShape_of_free pFillDisplayCmd_free
theorem fixedShape_pClearDisplayCmd : fixedShape pClearDisplayCmd = none :=
  fixedShape_of_free (List.mem_of_mem_erase pClearDisplayCmd_mem)
theorem pClearDisplayCmd_ne : pClearDisplayCmd ≠ pFillDisplayCmd := fun h =>
  (nodup_freeFirstBytes.not_mem_erase) (h ▸ pClearDisplayCmd_mem)

@[simp] theorem commandShape_pFillDisplayCmd : commandShape pFillDisplayCmd = some (.op0 .forceEntireOn) := by
  simp [commandShape, fixedShape_pFillDisplayCmd]
@[simp] theorem commandShape_pClearDisplayCmd : commandShape pClearDisplayCmd = some (.op0 .forceEntireOff) := by
  simp [commandShape, fixedShape_pClearDisplayCmd, pClearDisplayCmd_ne]

/-- A fixed first byte has its fixed shape. -/
theorem commandShape_of_fixed {b : Byte} {sh : CommandShape} (h : fixedShape b = some sh) : commandShape b = some sh := by
  simp [commandShape, h]

end Sys2Proof
end

