-- ==== Sys2Proof/Laws/State.lean ====
section
/-! SUPPORT. One lemma per field per update of the state, true by rfl, so that no proof unfolds a record update. -/
namespace Sys2Proof.Machine

/-! ### `State.complete` -/

@[simp] theorem State.complete_fb (s : State) (info : BitVec 16) (op code : Byte) : (s.complete info op code).fb = s.fb := rfl
@[simp] theorem State.complete_seq (s : State) (info : BitVec 16) (op code : Byte) : (s.complete info op code).seq = .idle := rfl
@[simp] theorem State.complete_req (s : State) (info : BitVec 16) (op code : Byte) : (s.complete info op code).req = s.req := rfl
@[simp] theorem State.complete_status (s : State) (info : BitVec 16) (op code : Byte) : (s.complete info op code).status = Status.pack info op code := rfl
@[simp] theorem State.complete_pstate (s : State) (info : BitVec 16) (op code : Byte) : (s.complete info op code).pstate = s.pstate := rfl
@[simp] theorem State.complete_contrast (s : State) (info : BitVec 16) (op code : Byte) : (s.complete info op code).contrast = s.contrast := rfl
@[simp] theorem State.complete_addrMode (s : State) (info : BitVec 16) (op code : Byte) : (s.complete info op code).addrMode = s.addrMode := rfl
@[simp] theorem State.complete_power (s : State) (info : BitVec 16) (op code : Byte) : (s.complete info op code).power = s.power := rfl
@[simp] theorem State.complete_dispSrc (s : State) (info : BitVec 16) (op code : Byte) : (s.complete info op code).dispSrc = s.dispSrc := rfl
@[simp] theorem State.complete_trace (s : State) (info : BitVec 16) (op code : Byte) : (s.complete info op code).trace = s.trace := rfl
@[simp] theorem State.complete_port (s : State) (info : BitVec 16) (op code : Byte) : (s.complete info op code).port = s.port := rfl
@[simp] theorem State.complete_glyph (s : State) (info : BitVec 16) (op code : Byte) : (s.complete info op code).glyph = s.glyph := rfl
@[simp] theorem State.complete_mem (s : State) (info : BitVec 16) (op code : Byte) : (s.complete info op code).mem = s.mem := rfl
@[simp] theorem State.complete_answers (s : State) (info : BitVec 16) (op code : Byte) : (s.complete info op code).answers = s.answers := rfl
@[simp] theorem State.complete_draws (s : State) (info : BitVec 16) (op code : Byte) : (s.complete info op code).draws = s.draws := rfl
@[simp] theorem State.complete_resets (s : State) (info : BitVec 16) (op code : Byte) : (s.complete info op code).resets = s.resets := rfl
@[simp] theorem State.complete_inbox (s : State) (info : BitVec 16) (op code : Byte) : (s.complete info op code).inbox = s.inbox := rfl
@[simp] theorem State.complete_ctl (s : State) (info : BitVec 16) (op code : Byte) : (s.complete info op code).ctl = s.ctl := rfl

theorem State.raise_eq (s : State) (op code : Byte) : s.raise op code = s.complete 0#16 op code := rfl

/-! ### `State.raise` -/

@[simp] theorem State.raise_fb (s : State) (op code : Byte) : (s.raise op code).fb = s.fb := rfl
@[simp] theorem State.raise_seq (s : State) (op code : Byte) : (s.raise op code).seq = .idle := rfl
@[simp] theorem State.raise_req (s : State) (op code : Byte) : (s.raise op code).req = s.req := rfl
@[simp] theorem State.raise_status (s : State) (op code : Byte) : (s.raise op code).status = Status.pack 0#16 op code := rfl
@[simp] theorem State.raise_pstate (s : State) (op code : Byte) : (s.raise op code).pstate = s.pstate := rfl
@[simp] theorem State.raise_contrast (s : State) (op code : Byte) : (s.raise op code).contrast = s.contrast := rfl
@[simp] theorem State.raise_addrMode (s : State) (op code : Byte) : (s.raise op code).addrMode = s.addrMode := rfl
@[simp] theorem State.raise_power (s : State) (op code : Byte) : (s.raise op code).power = s.power := rfl
@[simp] theorem State.raise_dispSrc (s : State) (op code : Byte) : (s.raise op code).dispSrc = s.dispSrc := rfl
@[simp] theorem State.raise_trace (s : State) (op code : Byte) : (s.raise op code).trace = s.trace := rfl
@[simp] theorem State.raise_port (s : State) (op code : Byte) : (s.raise op code).port = s.port := rfl
@[simp] theorem State.raise_glyph (s : State) (op code : Byte) : (s.raise op code).glyph = s.glyph := rfl
@[simp] theorem State.raise_mem (s : State) (op code : Byte) : (s.raise op code).mem = s.mem := rfl
@[simp] theorem State.raise_answers (s : State) (op code : Byte) : (s.raise op code).answers = s.answers := rfl
@[simp] theorem State.raise_draws (s : State) (op code : Byte) : (s.raise op code).draws = s.draws := rfl
@[simp] theorem State.raise_resets (s : State) (op code : Byte) : (s.raise op code).resets = s.resets := rfl
@[simp] theorem State.raise_inbox (s : State) (op code : Byte) : (s.raise op code).inbox = s.inbox := rfl
@[simp] theorem State.raise_ctl (s : State) (op code : Byte) : (s.raise op code).ctl = s.ctl := rfl

/-! ### `State.finishRaster` -/

@[simp] theorem State.finishRaster_fb (s : State) (op : Byte) (fb : List Byte) : (s.finishRaster op fb).fb = fb := rfl
@[simp] theorem State.finishRaster_seq (s : State) (op : Byte) (fb : List Byte) : (s.finishRaster op fb).seq = .idle := rfl
@[simp] theorem State.finishRaster_req (s : State) (op : Byte) (fb : List Byte) : (s.finishRaster op fb).req = s.req := rfl
@[simp] theorem State.finishRaster_status (s : State) (op : Byte) (fb : List Byte) : (s.finishRaster op fb).status = Status.pack 0#16 op Status.OK := rfl
@[simp] theorem State.finishRaster_pstate (s : State) (op : Byte) (fb : List Byte) : (s.finishRaster op fb).pstate = s.pstate := rfl
@[simp] theorem State.finishRaster_contrast (s : State) (op : Byte) (fb : List Byte) : (s.finishRaster op fb).contrast = s.contrast := rfl
@[simp] theorem State.finishRaster_addrMode (s : State) (op : Byte) (fb : List Byte) : (s.finishRaster op fb).addrMode = s.addrMode := rfl
@[simp] theorem State.finishRaster_power (s : State) (op : Byte) (fb : List Byte) : (s.finishRaster op fb).power = s.power := rfl
@[simp] theorem State.finishRaster_dispSrc (s : State) (op : Byte) (fb : List Byte) : (s.finishRaster op fb).dispSrc = s.dispSrc := rfl
@[simp] theorem State.finishRaster_trace (s : State) (op : Byte) (fb : List Byte) : (s.finishRaster op fb).trace = s.trace := rfl
@[simp] theorem State.finishRaster_port (s : State) (op : Byte) (fb : List Byte) : (s.finishRaster op fb).port = s.port := rfl
@[simp] theorem State.finishRaster_glyph (s : State) (op : Byte) (fb : List Byte) : (s.finishRaster op fb).glyph = s.glyph := rfl
@[simp] theorem State.finishRaster_mem (s : State) (op : Byte) (fb : List Byte) : (s.finishRaster op fb).mem = s.mem := rfl
@[simp] theorem State.finishRaster_answers (s : State) (op : Byte) (fb : List Byte) : (s.finishRaster op fb).answers = s.answers := rfl
@[simp] theorem State.finishRaster_draws (s : State) (op : Byte) (fb : List Byte) : (s.finishRaster op fb).draws = s.draws := rfl
@[simp] theorem State.finishRaster_resets (s : State) (op : Byte) (fb : List Byte) : (s.finishRaster op fb).resets = s.resets := rfl
@[simp] theorem State.finishRaster_inbox (s : State) (op : Byte) (fb : List Byte) : (s.finishRaster op fb).inbox = s.inbox := rfl
@[simp] theorem State.finishRaster_ctl (s : State) (op : Byte) (fb : List Byte) : (s.finishRaster op fb).ctl = s.ctl := rfl

/-! ### `State.busWrite` -/

@[simp] theorem State.busWrite_fb (s : State) (t : BusByte) : (s.busWrite t).fb = s.fb := rfl
@[simp] theorem State.busWrite_seq (s : State) (t : BusByte) : (s.busWrite t).seq = s.seq := rfl
@[simp] theorem State.busWrite_req (s : State) (t : BusByte) : (s.busWrite t).req = s.req := rfl
@[simp] theorem State.busWrite_status (s : State) (t : BusByte) : (s.busWrite t).status = s.status := rfl
@[simp] theorem State.busWrite_pstate (s : State) (t : BusByte) : (s.busWrite t).pstate = s.pstate := rfl
@[simp] theorem State.busWrite_contrast (s : State) (t : BusByte) : (s.busWrite t).contrast = s.contrast := rfl
@[simp] theorem State.busWrite_addrMode (s : State) (t : BusByte) : (s.busWrite t).addrMode = s.addrMode := rfl
@[simp] theorem State.busWrite_power (s : State) (t : BusByte) : (s.busWrite t).power = s.power := rfl
@[simp] theorem State.busWrite_dispSrc (s : State) (t : BusByte) : (s.busWrite t).dispSrc = s.dispSrc := rfl
@[simp] theorem State.busWrite_trace (s : State) (t : BusByte) : (s.busWrite t).trace = s.trace ++ [t.answered s.nextAnswer] := rfl
@[simp] theorem State.busWrite_port (s : State) (t : BusByte) : (s.busWrite t).port = s.port := rfl
@[simp] theorem State.busWrite_glyph (s : State) (t : BusByte) : (s.busWrite t).glyph = s.glyph := rfl
@[simp] theorem State.busWrite_mem (s : State) (t : BusByte) : (s.busWrite t).mem = s.mem := rfl
@[simp] theorem State.busWrite_answers (s : State) (t : BusByte) : (s.busWrite t).answers = s.answers.tail := rfl
@[simp] theorem State.busWrite_draws (s : State) (t : BusByte) : (s.busWrite t).draws = s.draws + 1 := rfl
@[simp] theorem State.busWrite_resets (s : State) (t : BusByte) : (s.busWrite t).resets = s.resets := rfl
@[simp] theorem State.busWrite_inbox (s : State) (t : BusByte) : (s.busWrite t).inbox = s.inbox ++ [t.answered s.nextAnswer] := rfl
@[simp] theorem State.busWrite_ctl (s : State) (t : BusByte) : (s.busWrite t).ctl = s.ctl := rfl

/-! ### `State.startDevice` -/

@[simp] theorem State.startDevice_fb (s : State) (op : DeviceOp) : (s.startDevice op).fb = s.fb := rfl
@[simp] theorem State.startDevice_seq (s : State) (op : DeviceOp) : (s.startDevice op).seq = .busy op 0 := rfl
@[simp] theorem State.startDevice_req (s : State) (op : DeviceOp) : (s.startDevice op).req = s.req := rfl
@[simp] theorem State.startDevice_status (s : State) (op : DeviceOp) : (s.startDevice op).status = s.status := rfl
@[simp] theorem State.startDevice_pstate (s : State) (op : DeviceOp) : (s.startDevice op).pstate = s.pstate := rfl
@[simp] theorem State.startDevice_contrast (s : State) (op : DeviceOp) : (s.startDevice op).contrast = s.contrast := rfl
@[simp] theorem State.startDevice_addrMode (s : State) (op : DeviceOp) : (s.startDevice op).addrMode = s.addrMode := rfl
@[simp] theorem State.startDevice_power (s : State) (op : DeviceOp) : (s.startDevice op).power = s.power := rfl
@[simp] theorem State.startDevice_dispSrc (s : State) (op : DeviceOp) : (s.startDevice op).dispSrc = s.dispSrc := rfl
@[simp] theorem State.startDevice_trace (s : State) (op : DeviceOp) : (s.startDevice op).trace = s.trace := rfl
@[simp] theorem State.startDevice_port (s : State) (op : DeviceOp) : (s.startDevice op).port = s.port := rfl
@[simp] theorem State.startDevice_glyph (s : State) (op : DeviceOp) : (s.startDevice op).glyph = s.glyph := rfl
@[simp] theorem State.startDevice_mem (s : State) (op : DeviceOp) : (s.startDevice op).mem = s.mem := rfl
@[simp] theorem State.startDevice_answers (s : State) (op : DeviceOp) : (s.startDevice op).answers = s.answers := rfl
@[simp] theorem State.startDevice_draws (s : State) (op : DeviceOp) : (s.startDevice op).draws = s.draws := rfl
@[simp] theorem State.startDevice_resets (s : State) (op : DeviceOp) : (s.startDevice op).resets = s.resets := rfl
@[simp] theorem State.startDevice_inbox (s : State) (op : DeviceOp) : (s.startDevice op).inbox = s.inbox := rfl
@[simp] theorem State.startDevice_ctl (s : State) (op : DeviceOp) : (s.startDevice op).ctl = s.ctl := rfl

/-! ### `State.initOk` -/

@[simp] theorem State.initOk_fb (s : State) : (s.initOk).fb = s.fb := rfl
@[simp] theorem State.initOk_seq (s : State) : (s.initOk).seq = s.seq := rfl
@[simp] theorem State.initOk_req (s : State) : (s.initOk).req = s.req := rfl
@[simp] theorem State.initOk_status (s : State) : (s.initOk).status = s.status := rfl
@[simp] theorem State.initOk_pstate (s : State) : (s.initOk).pstate = .active := rfl
@[simp] theorem State.initOk_contrast (s : State) : (s.initOk).contrast = .known Config.initContrast := rfl
@[simp] theorem State.initOk_addrMode (s : State) : (s.initOk).addrMode = .known .horizontal := rfl
@[simp] theorem State.initOk_power (s : State) : (s.initOk).power = .known .on := rfl
@[simp] theorem State.initOk_dispSrc (s : State) : (s.initOk).dispSrc = .known .buffer := rfl
@[simp] theorem State.initOk_trace (s : State) : (s.initOk).trace = s.trace := rfl
@[simp] theorem State.initOk_port (s : State) : (s.initOk).port = s.port := rfl
@[simp] theorem State.initOk_glyph (s : State) : (s.initOk).glyph = s.glyph := rfl
@[simp] theorem State.initOk_mem (s : State) : (s.initOk).mem = s.mem := rfl
@[simp] theorem State.initOk_answers (s : State) : (s.initOk).answers = s.answers := rfl
@[simp] theorem State.initOk_draws (s : State) : (s.initOk).draws = s.draws := rfl
@[simp] theorem State.initOk_resets (s : State) : (s.initOk).resets = s.resets := rfl
@[simp] theorem State.initOk_inbox (s : State) : (s.initOk).inbox = s.inbox := rfl
@[simp] theorem State.initOk_ctl (s : State) : (s.initOk).ctl = s.ctl := rfl

/-! ### `State.initFail` -/

@[simp] theorem State.initFail_fb (s : State) : (s.initFail).fb = s.fb := rfl
@[simp] theorem State.initFail_seq (s : State) : (s.initFail).seq = s.seq := rfl
@[simp] theorem State.initFail_req (s : State) : (s.initFail).req = s.req := rfl
@[simp] theorem State.initFail_status (s : State) : (s.initFail).status = s.status := rfl
@[simp] theorem State.initFail_pstate (s : State) : (s.initFail).pstate = .uninit := rfl
@[simp] theorem State.initFail_contrast (s : State) : (s.initFail).contrast = .unknown := rfl
@[simp] theorem State.initFail_addrMode (s : State) : (s.initFail).addrMode = .unknown := rfl
@[simp] theorem State.initFail_power (s : State) : (s.initFail).power = .unknown := rfl
@[simp] theorem State.initFail_dispSrc (s : State) : (s.initFail).dispSrc = .unknown := rfl
@[simp] theorem State.initFail_trace (s : State) : (s.initFail).trace = s.trace := rfl
@[simp] theorem State.initFail_port (s : State) : (s.initFail).port = s.port := rfl
@[simp] theorem State.initFail_glyph (s : State) : (s.initFail).glyph = s.glyph := rfl
@[simp] theorem State.initFail_mem (s : State) : (s.initFail).mem = s.mem := rfl
@[simp] theorem State.initFail_answers (s : State) : (s.initFail).answers = s.answers := rfl
@[simp] theorem State.initFail_draws (s : State) : (s.initFail).draws = s.draws := rfl
@[simp] theorem State.initFail_resets (s : State) : (s.initFail).resets = s.resets := rfl
@[simp] theorem State.initFail_inbox (s : State) : (s.initFail).inbox = s.inbox := rfl
@[simp] theorem State.initFail_ctl (s : State) : (s.initFail).ctl = s.ctl := rfl

/-! ### `State.control` -/

@[simp] theorem State.control_fb (s : State) (f : Controller → Controller) : (s.control f).fb = s.fb := by unfold State.control; split <;> rfl
@[simp] theorem State.control_seq (s : State) (f : Controller → Controller) : (s.control f).seq = s.seq := by unfold State.control; split <;> rfl
@[simp] theorem State.control_req (s : State) (f : Controller → Controller) : (s.control f).req = s.req := by unfold State.control; split <;> rfl
@[simp] theorem State.control_status (s : State) (f : Controller → Controller) : (s.control f).status = s.status := by unfold State.control; split <;> rfl
@[simp] theorem State.control_pstate (s : State) (f : Controller → Controller) : (s.control f).pstate = s.pstate := by unfold State.control; split <;> rfl
@[simp] theorem State.control_contrast (s : State) (f : Controller → Controller) : (s.control f).contrast = s.contrast := by unfold State.control; split <;> rfl
@[simp] theorem State.control_addrMode (s : State) (f : Controller → Controller) : (s.control f).addrMode = s.addrMode := by unfold State.control; split <;> rfl
@[simp] theorem State.control_power (s : State) (f : Controller → Controller) : (s.control f).power = s.power := by unfold State.control; split <;> rfl
@[simp] theorem State.control_dispSrc (s : State) (f : Controller → Controller) : (s.control f).dispSrc = s.dispSrc := by unfold State.control; split <;> rfl
@[simp] theorem State.control_trace (s : State) (f : Controller → Controller) : (s.control f).trace = s.trace := by unfold State.control; split <;> rfl
@[simp] theorem State.control_port (s : State) (f : Controller → Controller) : (s.control f).port = s.port := by unfold State.control; split <;> rfl
@[simp] theorem State.control_glyph (s : State) (f : Controller → Controller) : (s.control f).glyph = s.glyph := by unfold State.control; split <;> rfl
@[simp] theorem State.control_mem (s : State) (f : Controller → Controller) : (s.control f).mem = s.mem := by unfold State.control; split <;> rfl
@[simp] theorem State.control_answers (s : State) (f : Controller → Controller) : (s.control f).answers = s.answers := by unfold State.control; split <;> rfl
@[simp] theorem State.control_draws (s : State) (f : Controller → Controller) : (s.control f).draws = s.draws := by unfold State.control; split <;> rfl
@[simp] theorem State.control_resets (s : State) (f : Controller → Controller) : (s.control f).resets = s.resets := by unfold State.control; split <;> rfl
@[simp] theorem State.control_inbox (s : State) (f : Controller → Controller) : (s.control f).inbox = s.inbox := by unfold State.control; split <;> rfl

@[simp] theorem State.control_ctl (s : State) (f : Controller → Controller) :
    (s.control f).ctl = if s.ctl.lost then s.ctl else f s.ctl := by unfold State.control; split <;> simp_all

/-- A controller that is LOST changes by nothing. -/
theorem State.control_of_lost {s : State} (f : Controller → Controller) (h : s.ctl.lost = true) : s.control f = s := by
  simp [State.control, h]

/-- A controller that is not LOST changes by `f`. -/
theorem State.control_of_not_lost {s : State} (f : Controller → Controller) (h : s.ctl.lost = false) :
    s.control f = { s with ctl := f s.ctl } := by
  simp [State.control, h]

/-! ### The state after reset, and after a further reset -/

@[simp] theorem State.reset_fb : State.reset.fb = fbResetDraw 0 := by simp only [State.reset]
@[simp] theorem State.reset_seq : State.reset.seq = .idle := rfl
@[simp] theorem State.reset_req : State.reset.req = Config.reqReset 0 := rfl
@[simp] theorem State.reset_status : State.reset.status = 0#32 := rfl
@[simp] theorem State.reset_pstate : State.reset.pstate = .uninit := rfl
@[simp] theorem State.reset_contrast : State.reset.contrast = .known Config.contrastReset := rfl
@[simp] theorem State.reset_addrMode : State.reset.addrMode = .unknown := rfl
@[simp] theorem State.reset_power : State.reset.power = .unknown := rfl
@[simp] theorem State.reset_dispSrc : State.reset.dispSrc = .unknown := rfl
@[simp] theorem State.reset_trace : State.reset.trace = [] := rfl
@[simp] theorem State.reset_port : State.reset.port = [] := rfl
@[simp] theorem State.reset_mem : State.reset.mem = [] := rfl
@[simp] theorem State.reset_answers : State.reset.answers = [] := rfl
@[simp] theorem State.reset_draws : State.reset.draws = 0 := rfl
@[simp] theorem State.reset_resets : State.reset.resets = 0 := rfl
@[simp] theorem State.reset_inbox : State.reset.inbox = [] := rfl
@[simp] theorem State.reset_ctl : State.reset.ctl = Controller.powerUp := by simp only [State.reset]
theorem State.reset_glyph : State.reset.glyph = (List.range 96).map (fun k => glyphDraw (k + 32)) := by
  simp only [State.reset]

@[simp] theorem State.afterReset_fb (s : State) : s.afterReset.fb = fbResetDraw (s.resets + 1) := by simp only [State.afterReset]
@[simp] theorem State.afterReset_seq (s : State) : s.afterReset.seq = .idle := by simp only [State.afterReset, State.reset]
@[simp] theorem State.afterReset_req (s : State) : s.afterReset.req = Config.reqReset (s.resets + 1) := by simp only [State.afterReset]
@[simp] theorem State.afterReset_status (s : State) : s.afterReset.status = 0#32 := by simp only [State.afterReset, State.reset]
@[simp] theorem State.afterReset_pstate (s : State) : s.afterReset.pstate = .uninit := by simp only [State.afterReset, State.reset]
@[simp] theorem State.afterReset_contrast (s : State) : s.afterReset.contrast = .known Config.contrastReset := by simp only [State.afterReset, State.reset]
@[simp] theorem State.afterReset_addrMode (s : State) : s.afterReset.addrMode = .unknown := by simp only [State.afterReset, State.reset]
@[simp] theorem State.afterReset_power (s : State) : s.afterReset.power = .unknown := by simp only [State.afterReset, State.reset]
@[simp] theorem State.afterReset_dispSrc (s : State) : s.afterReset.dispSrc = .unknown := by simp only [State.afterReset, State.reset]
@[simp] theorem State.afterReset_trace (s : State) : s.afterReset.trace = [] := by simp only [State.afterReset, State.reset]
@[simp] theorem State.afterReset_port (s : State) : s.afterReset.port = s.port := by simp only [State.afterReset]
@[simp] theorem State.afterReset_glyph (s : State) : s.afterReset.glyph = s.glyph := by simp only [State.afterReset]
@[simp] theorem State.afterReset_mem (s : State) : s.afterReset.mem = s.mem := by simp only [State.afterReset]
@[simp] theorem State.afterReset_answers (s : State) : s.afterReset.answers = s.answers := by simp only [State.afterReset]
@[simp] theorem State.afterReset_draws (s : State) : s.afterReset.draws = s.draws := by simp only [State.afterReset]
@[simp] theorem State.afterReset_resets (s : State) : s.afterReset.resets = s.resets + 1 := by simp only [State.afterReset]
@[simp] theorem State.afterReset_inbox (s : State) : s.afterReset.inbox = [] := by simp only [State.afterReset, State.reset]
@[simp] theorem State.afterReset_ctl (s : State) : s.afterReset.ctl = Controller.powerUp := by simp only [State.afterReset, State.reset]

/-! ### STATUS fields -/

@[simp] theorem Status.code_pack (info : BitVec 16) (op code : Byte) : Status.code (Status.pack info op code) = code := by
  ext i hi; simp [Status.code, Status.pack]; try grind

@[simp] theorem Status.opc_pack (info : BitVec 16) (op code : Byte) : Status.opc (Status.pack info op code) = op := by
  ext i hi; simp [Status.opc, Status.pack]; try grind

@[simp] theorem Status.info_pack (info : BitVec 16) (op code : Byte) : Status.info (Status.pack info op code) = info := by
  ext i hi; simp [Status.info, Status.pack]; try grind

end Sys2Proof.Machine
end

