-- ==== Sys2Proof/Laws/Protocol.lean ====
section
/-! SUPPORT. The device protocol: what one bus-write step does, by the transport's answer, and what a device request does by SEQ. -/
namespace Sys2Proof.Machine

@[simp] theorem Seq.position_idle (op : DeviceOp) : Seq.idle.position op = none := rfl

@[simp] theorem Seq.position_busy (op : DeviceOp) (k : Nat) : (Seq.busy op k).position op = some k := by simp [Seq.position]

theorem length_initTxns : initTxns.length = 22 := rfl

theorem length_displayTxns (fb : List Byte) : (displayTxns fb).length = fb.length + 6 := by
  simp [displayTxns, windowTxns]

@[simp] theorem length_requestTxns_init (s : State) : (requestTxns .init s).length = 22 := rfl
@[simp] theorem length_requestTxns_display (s : State) : (requestTxns .display s).length = s.fb.length + 6 :=
  length_displayTxns s.fb
@[simp] theorem length_requestTxns_setBrightness (s : State) : (requestTxns .setBrightness s).length = 2 := rfl
@[simp] theorem length_requestTxns_fillDisplay (s : State) : (requestTxns .fillDisplay s).length = 1 := rfl
@[simp] theorem length_requestTxns_clearDisplay (s : State) : (requestTxns .clearDisplay s).length = 1 := rfl

/-- A write answered `ok` that is not the last. -/
theorem State.sendStep_more {s : State} {op : DeviceOp} {txns : List BusByte} {f g : State → State} {k : Nat} {t : BusByte}
    (ht : txns[k]? = some t) (ha : s.nextAnswer = .ok) (hk : k + 1 < txns.length) :
    s.sendStep op txns f g k = { s.busWrite t with seq := .busy op (k + 1) } := by
  simp [State.sendStep, ht, ha, hk]

/-- The last write answered `ok`. -/
theorem State.sendStep_last {s : State} {op : DeviceOp} {txns : List BusByte} {f g : State → State} {k : Nat} {t : BusByte}
    (ht : txns[k]? = some t) (ha : s.nextAnswer = .ok) (hk : txns.length ≤ k + 1) :
    s.sendStep op txns f g k = (f (s.busWrite t)).complete 0#16 op.code Status.OK := by
  simp [State.sendStep, ht, ha, Nat.not_lt.2 hk]

/-- A write answered `fail`. -/
theorem State.sendStep_fail {s : State} {op : DeviceOp} {txns : List BusByte} {f g : State → State} {k : Nat} {t : BusByte}
    (ht : txns[k]? = some t) (ha : s.nextAnswer = .fail) :
    s.sendStep op txns f g k = (g (s.busWrite t)).complete (BitVec.ofNat 16 k) op.code Status.TRANSPORT_FAILURE := by
  simp [State.sendStep, ht, ha]

/-- What PSTATE and the shadows become when a device request ends with every write answered `ok`. -/
def onOk (op : DeviceOp) (req : RequestWord) (s : State) : State :=
  match op with
  | .init => s.initOk
  | .display => s
  | .setBrightness => { s with contrast := .known (reqK req) }
  | .fillDisplay => { s with dispSrc := .known .forcedOn }
  | .clearDisplay => { s with dispSrc := .known .forcedOff }

/-- What PSTATE and the shadows become when a write of a device request is answered `fail`. -/
def onFail (op : DeviceOp) (s : State) : State :=
  match op with
  | .init => s.initFail
  | .display => s
  | .setBrightness => { s with contrast := .unknown }
  | .fillDisplay => { s with dispSrc := .unknown }
  | .clearDisplay => { s with dispSrc := .unknown }

/-- A device request in progress is its next bus-write step: the one lemma about the five of them. -/
theorem exec_inProgress {s : State} {op : DeviceOp} {k : Nat} (h : s.seq = .busy op k) :
    exec (op.instr s.req) s = .next (s.sendStep op (requestTxns op s) (onOk op s.req) (onFail op) k) := by
  cases op <;>
    simp only [DeviceOp.instr, exec, execInit, execDisplay, execSetBrightness, execFillDisplay, execClearDisplay, h,
      Seq.position_busy, requestTxns] <;> rfl

/-- The answer to come, where one is settled. -/
theorem State.nextAnswer_cons {s : State} {a : Answer} {as : List Answer} (h : s.answers = a :: as) : s.nextAnswer = a := by
  simp [State.nextAnswer, h]

/-- The end of a request changes PSTATE and the shadows only. -/
theorem onOk_frame (op : DeviceOp) (req : RequestWord) (s : State) :
    ∃ p c a w d, onOk op req s = { s with pstate := p, contrast := c, addrMode := a, power := w, dispSrc := d } := by
  cases op <;> exact ⟨_, _, _, _, _, rfl⟩

/-- The failure of a request changes PSTATE and the shadows only. -/
theorem onFail_frame (op : DeviceOp) (s : State) :
    ∃ p c a w d, onFail op s = { s with pstate := p, contrast := c, addrMode := a, power := w, dispSrc := d } := by
  cases op <;> exact ⟨_, _, _, _, _, rfl⟩

/-- A request's transactions depend on FB and REQ alone. -/
theorem requestTxns_congr {s t : State} (op : DeviceOp) (hf : t.fb = s.fb) (hr : t.req = s.req) :
    requestTxns op t = requestTxns op s := by
  cases op <;> simp only [requestTxns, hf, hr]

/-- Every device request has a transaction. -/
theorem requestTxns_pos (op : DeviceOp) (s : State) : 0 < (requestTxns op s).length := by
  cases op <;> simp

end Sys2Proof.Machine
end

