-- ==== Sys2Proof/Laws/Fetch.lean ====
section
/-! SUPPORT. What a step does, one lemma per case of the fetch, and the inversion of the step into its cases. -/
namespace Sys2Proof.Machine

theorem step_of_run {s s' : State} {i : Instr} (h : fetch s = .run i s') : step s = exec i s' := by simp [step, h]

theorem step_of_done {s s' : State} (h : fetch s = .done s') : step s = .next s' := by simp [step, h]

/-- A waiting transaction is received before anything else happens. -/
theorem fetch_receive {s : State} {t : Txn} {rest : List Txn} (h : s.inbox = t :: rest) :
    fetch s = receive t { s with inbox := rest } := by simp [fetch, h]

/-- A request in progress goes on. -/
theorem fetch_busy {s : State} {op : DeviceOp} {k : Nat} (hi : s.inbox = []) (h : s.seq = .busy op k) :
    fetch s = .run (op.instr s.req) s := by simp [fetch, hi, h]

/-- A presented word is accepted. -/
theorem fetch_accept {s : State} {w : RequestWord} {rest : List RequestWord} (hi : s.inbox = []) (h : s.seq = .idle)
    (hp : s.port = w :: rest) : fetch s = accept w { s with port := rest } := by simp [fetch, hi, h, hp]

/-- Nothing to do. -/
theorem fetch_idle {s : State} (hi : s.inbox = []) (h : s.seq = .idle) (hp : s.port = []) : fetch s = .done s := by
  simp [fetch, hi, h, hp]

/-- A step while a request is in progress and nothing waits for the controller. -/
theorem step_busy {s : State} {op : DeviceOp} {k : Nat} (hi : s.inbox = []) (h : s.seq = .busy op k) :
    step s = .next (s.sendStep op (requestTxns op s) (onOk op s.req) (onFail op) k) := by
  rw [step_of_run (fetch_busy hi h), exec_inProgress h]

/-- The controller rows change `ctl` and nothing else. -/
theorem exec_controller {i : Instr} (hi : i.isRequest = false) :
    ∃ f, ∀ s : State, exec i s = .next (s.control f) := by
  cases i <;> simp [Instr.isRequest, Instr.isRaster, Instr.isDevice] at hi
  all_goals exact ⟨_, fun _ => rfl⟩

/-- A command shape makes a controller row of every operand. -/
def ShapeControls : CommandShape → Prop
  | .op0 i => i.isRequest = false
  | .op1 f => ∀ v, (f v).isRequest = false
  | .op2 f => ∀ v u, (f v u).isRequest = false

/-- What such a shape builds is a controller row. -/
theorem ShapeControls.build {sh : CommandShape} (hc : ShapeControls sh) {ops : List Byte} {i : Instr}
    (h : sh.build ops = .instr i) : i.isRequest = false := by
  unfold CommandShape.build at h
  split at h <;> cases h
  · exact hc
  · exact hc _
  · exact hc _ _

/-- The fixed rows of R79 are controller rows. -/
theorem fixedTable_controls : ∀ r ∈ fixedTable, ShapeControls r.2 := by
  simp [fixedTable, ShapeControls, Instr.isRequest, Instr.isRaster, Instr.isDevice]

/-- So is the whole table of R79. -/
theorem commandShape_controls {b : Byte} {sh : CommandShape} (hs : commandShape b = some sh) : ShapeControls sh := by
  unfold commandShape at hs
  split at hs
  · next hf => cases hs; exact fixedTable_controls _ (mem_fixedTable hf)
  · split_ifs at hs <;> cases hs <;> rfl

/-- Command bytes decode to controller rows. -/
theorem isRequest_of_decodeCommand {bytes : List Byte} {i : Instr} (h : decode (.command bytes) = .instr i) :
    i.isRequest = false := by
  rcases bytes with _ | ⟨b, ops⟩
  · simp [decode, decodeCommand] at h
  · simp only [decode, decodeCommand] at h
    split at h
    · next hs => exact (commandShape_controls hs).build h
    · simp at h

/-- What a fetched step does, as one function: the step is this of the fetch. -/
def runFetched : Fetched → Host.Outcome State Fault Refusal
  | .run i s => exec i s
  | .done s => .next s

theorem step_eq (s : State) : step s = runFetched (fetch s) := by
  unfold step runFetched; cases fetch s <;> rfl

/-- A controller row changes `ctl` by `ctl` alone, whatever else the state holds. -/
theorem run_controller {i : Instr} (hi : i.isRequest = false) (c : Controller) :
    ∃ c', ∀ s : State, runFetched (.run i { s with ctl := c }) = .next { s with ctl := c' } := by
  obtain ⟨f, hf⟩ := exec_controller hi
  refine ⟨if c.lost then c else f c, fun s => ?_⟩
  simp only [runFetched, hf, State.control]
  split <;> rfl

theorem run_runCommand (bytes : List Byte) (c : Controller) :
    ∃ c', ∀ s : State, runFetched (runCommand bytes { s with ctl := c }) = .next { s with ctl := c' } := by
  unfold runCommand
  cases hd : decode (.command bytes) with
  | instr i => exact run_controller (isRequest_of_decodeCommand hd) c
  | reject r => exact ⟨_, fun _ => rfl⟩

theorem run_receiveCommand (b : Byte) (c : Controller) :
    ∃ c', ∀ s : State, runFetched (receiveCommand b { s with ctl := c }) = .next { s with ctl := c' } := by
  unfold receiveCommand
  cases hp : c.parser with
  | idle =>
    cases ho : operandCount b with
    | none => simp only [hp]; exact ⟨_, fun _ => rfl⟩
    | some n =>
      cases n with
      | zero => simp only [hp]; exact run_runCommand _ c
      | succ n => simp only [hp]; exact ⟨_, fun _ => rfl⟩
  | need op n got =>
    simp only [hp]
    by_cases hn : (got ++ [b]).length = n
    · simp only [if_pos hn]; exact run_runCommand _ _
    · simp only [if_neg hn]; exact ⟨_, fun _ => rfl⟩
  | unknown => simp only [hp]; exact ⟨_, fun _ => rfl⟩

theorem run_receive_ctl (t : Txn) (c : Controller) :
    ∃ c', ∀ s : State, runFetched (receive t { s with ctl := c }) = .next { s with ctl := c' } := by
  unfold receive
  cases t.answer with
  | fail => exact ⟨_, fun _ => rfl⟩
  | ok =>
    by_cases hl : c.lost = true
    · simp only [if_pos hl]; exact ⟨c, fun _ => rfl⟩
    · simp only [if_neg hl]
      cases t.reg with
      | data => exact run_controller rfl c
      | command => exact run_receiveCommand _ c

/-- A reception changes `ctl` by the transaction and `ctl` alone, and nothing else. -/
theorem run_receive (t : Txn) (s : State) : runFetched (receive t s) = .next { s with ctl := s.ctl.after t } := by
  obtain ⟨c', hc⟩ := run_receive_ctl t s.ctl
  have ha : s.ctl.after t = c' := by
    unfold Controller.after
    rw [step_eq, fetch_receive rfl, hc { State.reset with inbox := [], ctl := s.ctl }]
  rw [ha]; exact hc s

/-- A step with a waiting transaction takes it from the inbox, changes `ctl`, and nothing else. -/
theorem step_receive {s : State} {t : Txn} {rest : List Txn} (h : s.inbox = t :: rest) :
    step s = .next { s with inbox := rest, ctl := s.ctl.after t } := by
  rw [step_eq, fetch_receive h]
  exact run_receive t { s with inbox := rest }

/-- What a transaction does to the controller, in any state that holds it. -/
theorem Controller.after_eq {c c' : Controller} {t : Txn}
    (h : ∀ s : State, runFetched (receive t { s with ctl := c }) = .next { s with ctl := c' }) : c.after t = c' := by
  have h := h State.reset
  rw [run_receive] at h
  injection h with h
  exact congrArg State.ctl h

/-- What the acceptance of a word does: its request's meaning, or the raise. -/
theorem step_accept {s : State} {w : RequestWord} {rest : List RequestWord} (hi : s.inbox = []) (h : s.seq = .idle)
    (hp : s.port = w :: rest) :
    (∃ i, decode (.request w) = .instr i ∧ step s = exec i { s with port := rest, req := w }) ∨
    (∃ r, decode (.request w) = .reject r ∧
      step s = .next (State.raise { s with port := rest } (reqOp w) Status.ILLEGAL_REQUEST)) := by
  have hf := fetch_accept hi h hp
  unfold accept at hf
  cases hd : decode (.request w) with
  | instr i => rw [hd] at hf; exact .inl ⟨i, rfl, step_of_run hf⟩
  | reject r => rw [hd] at hf; exact .inr ⟨r, rfl, step_of_done hf⟩

/-- A run takes its first step. -/
theorem runs_succ {s s' : State} (n : Nat) (h : step s = .next s') : runs (n + 1) s = runs n s' := by
  have h : Sys2Proof.core.step s = .next s' := h
  simp only [runs, Host.Core.run, h]; rfl

@[simp] theorem runs_zero (s : State) : runs 0 s = .next s := rfl

end Sys2Proof.Machine
end

