-- ==== Sys2Proof/Laws/Controller.lean ====
section
/-! SUPPORT. What one received transaction does to the controller, one lemma per case of 44_controller_receiver.md R212, R218, R222, and that it keeps the controller's invariant. -/
namespace Sys2Proof.Machine

/-- What a controller row does to a controller that is not LOST; a request does nothing to it. -/
def Controller.effect : Instr → Controller → Controller
  | .displayOff, c => c.setDisplay .off
  | .displayOn, c => c.setDisplay .on
  | .setMemoryAddressingMode m, c => if m = 0x00#8 then { c with mode := .known .horizontal } else Controller.gone
  | .setContrast v, c => { c with contrast := .known v }
  | .setSegmentRemap, c => { c with segRemap := .known .set }
  | .setMultiplexRatio v, c => { c with mux := .known v }
  | .setComScanRemapped, c => { c with comRemap := .known .set }
  | .setDisplayOffset v, c => { c with offset := .known v }
  | .setComPins v, c => { c with compins := .known v }
  | .setClockDivide v, c => { c with clkdiv := .known v }
  | .setPrechargePeriod v, c => { c with precharge := .known v }
  | .setVcomhDeselect v, c => { c with vcomh := .known v }
  | .resumeFromRam, c => c.resume
  | .normalDisplay, c => { c with invert := .known .normal }
  | .setColumnAddress a b, c => c.columnWindow a b
  | .setPageAddress a b, c => c.pageWindow a b
  | .forceEntireOn, c => { c with entire := .known .forcedOn }
  | .forceEntireOff, c => { c with entire := .known .forcedOff }
  | .dataByte v, c => c.receiveData v
  | _, c => c

/-- The controller rows are their effects. -/
theorem exec_effect {i : Instr} (hi : i.isRequest = false) (s : State) : exec i s = .next (s.control (Controller.effect i)) := by
  cases i
  all_goals first
    | rfl
    | exact absurd hi (by simp [Instr.isRequest, Instr.isRaster, Instr.isDevice])

/-- A failed transaction (R222). -/
theorem Controller.after_fail (c : Controller) (r : BusReg) (b : Byte) : c.after ⟨r, b, .fail⟩ = Controller.gone :=
  Controller.after_eq fun _ => rfl

/-- LOST ignores what is answered `ok` (R212, R218). -/
theorem Controller.after_lost {c : Controller} (h : c.lost = true) (r : BusReg) (b : Byte) : c.after ⟨r, b, .ok⟩ = c :=
  Controller.after_eq fun _ => by simp only [receive, h, if_true]; rfl

/-- A data byte (R218). -/
theorem Controller.after_data {c : Controller} (h : c.lost = false) (v : Byte) : c.after ⟨.data, v, .ok⟩ = c.receiveData v :=
  Controller.after_eq fun s => by
    have he := exec_effect (i := .dataByte v) rfl { s with ctl := c }
    simp only [receive, h, Bool.false_eq_true, if_false, runFetched, he, State.control]; rfl

/-- A command byte, through `receiveCommand` (R212). -/
theorem Controller.after_command {c c' : Controller} {b : Byte} (h : c.lost = false)
    (hr : ∀ s : State, runFetched (receiveCommand b { s with ctl := c }) = .next { s with ctl := c' }) :
    c.after ⟨.command, b, .ok⟩ = c' :=
  Controller.after_eq fun s => by simp only [receive, h, Bool.false_eq_true, if_false]; exact hr s

/-- A whole command runs. -/
theorem run_whole {bytes : List Byte} {i : Instr} {c : Controller} (hd : decode (.command bytes) = .instr i) (h : c.lost = false)
    (s : State) : runFetched (runCommand bytes { s with ctl := c }) = .next { s with ctl := Controller.effect i c } := by
  simp only [runCommand, hd, runFetched, exec_effect (isRequest_of_decodeCommand hd), State.control, h, Bool.false_eq_true, if_false]

/-- A first byte outside the table (R213). -/
theorem Controller.after_unknown {c : Controller} {b : Byte} (h : c.lost = false) (hp : c.parser = .idle)
    (ho : operandCount b = none) : c.after ⟨.command, b, .ok⟩ = Controller.gone :=
  Controller.after_command h fun _ => (by simp only [receiveCommand, hp, ho]; rfl)

/-- A command without operands. -/
theorem Controller.after_single {c : Controller} {b : Byte} {i : Instr} (h : c.lost = false) (hp : c.parser = .idle)
    (ho : operandCount b = some 0) (hd : decode (.command [b]) = .instr i) :
    c.after ⟨.command, b, .ok⟩ = Controller.effect i c :=
  Controller.after_command h fun s => (by simp only [receiveCommand, hp, ho]; exact run_whole hd h s)

/-- The first byte of a command with operands. -/
theorem Controller.after_first {c : Controller} {b : Byte} {n : Nat} (h : c.lost = false) (hp : c.parser = .idle)
    (ho : operandCount b = some (n + 1)) : c.after ⟨.command, b, .ok⟩ = { c with parser := .need b (n + 1) [] } :=
  Controller.after_command h fun _ => (by simp only [receiveCommand, hp, ho]; rfl)

/-- An operand byte that is not the last. -/
theorem Controller.after_operand {c : Controller} {b op : Byte} {n : Nat} {got : List Byte} (h : c.lost = false)
    (hp : c.parser = .need op n got) (hn : (got ++ [b]).length ≠ n) :
    c.after ⟨.command, b, .ok⟩ = { c with parser := .need op n (got ++ [b]) } :=
  Controller.after_command h fun _ => (by simp only [receiveCommand, hp, if_neg hn]; rfl)

/-- The last operand byte. -/
theorem Controller.after_last {c : Controller} {b op : Byte} {n : Nat} {got : List Byte} {i : Instr} (h : c.lost = false)
    (hp : c.parser = .need op n got) (hn : (got ++ [b]).length = n) (hd : decode (.command (op :: (got ++ [b]))) = .instr i) :
    c.after ⟨.command, b, .ok⟩ = Controller.effect i { c with parser := .idle } :=
  Controller.after_command h fun s => (by
    simp only [receiveCommand, hp, if_pos hn]; exact run_whole (c := { c with parser := .idle }) hd h s)

/-- A whole command without operands. -/
theorem Controller.after_op0 {c : Controller} {b : Byte} {i : Instr} (h : c.lost = false) (hp : c.parser = .idle)
    (hs : commandShape b = some (.op0 i)) : c.after ⟨.command, b, .ok⟩ = Controller.effect i c :=
  Controller.after_single h hp (by simp [operandCount, hs, CommandShape.operands])
    (by simp [decode, decodeCommand, hs, CommandShape.build])

theorem Controller.parser_idle {c : Controller} (hp : c.parser = .idle) : { c with parser := .idle } = c := by
  cases c; simp_all

/-- A whole command with one operand. -/
theorem Controller.after_op1 {c : Controller} {b v : Byte} {f : Byte → Instr} (h : c.lost = false) (hp : c.parser = .idle)
    (hs : commandShape b = some (.op1 f)) :
    (c.after ⟨.command, b, .ok⟩).after ⟨.command, v, .ok⟩ = Controller.effect (f v) c := by
  rw [Controller.after_first (n := 0) h hp (by simp [operandCount, hs, CommandShape.operands]),
    Controller.after_last (c := { c with parser := .need b 1 [] }) (i := f v) h rfl rfl
      (by simp [decode, decodeCommand, hs, CommandShape.build])]
  exact congrArg _ (Controller.parser_idle hp)

/-- A whole command with two operands. -/
theorem Controller.after_op2 {c : Controller} {b u v : Byte} {f : Byte → Byte → Instr} (h : c.lost = false)
    (hp : c.parser = .idle) (hs : commandShape b = some (.op2 f)) :
    ((c.after ⟨.command, b, .ok⟩).after ⟨.command, u, .ok⟩).after ⟨.command, v, .ok⟩ = Controller.effect (f u v) c := by
  rw [Controller.after_first (n := 1) h hp (by simp [operandCount, hs, CommandShape.operands]),
    Controller.after_operand (c := { c with parser := .need b 2 [] }) h rfl (by simp),
    Controller.after_last (c := { c with parser := .need b 2 ([] ++ [u]) }) (i := f u v) h rfl rfl
      (by simp [decode, decodeCommand, hs, CommandShape.build])]
  exact congrArg _ (Controller.parser_idle hp)

@[simp] theorem Controller.afterAll_nil (c : Controller) : c.afterAll [] = c := rfl
@[simp] theorem Controller.afterAll_cons (c : Controller) (t : Txn) (ts : List Txn) :
    c.afterAll (t :: ts) = (c.after t).afterAll ts := rfl
theorem Controller.afterAll_append (c : Controller) (ts us : List Txn) :
    c.afterAll (ts ++ us) = (c.afterAll ts).afterAll us := List.foldl_append

/-- A list of transactions to emit, every one answered `ok`. -/
def answeredOk (ts : List BusByte) : List Txn := ts.map fun t => t.answered .ok

/-- A controller that is not LOST, between two commands. -/
structure Controller.Ready (c : Controller) : Prop where
  notLost : c.lost = false
  idle : c.parser = .idle

/-- A ready controller takes a command without operands off a list of transactions. -/
theorem Controller.Ready.op0 {c : Controller} (h : c.Ready) {b : Byte} {i : Instr} (hs : commandShape b = some (.op0 i))
    (ts : List BusByte) : c.afterAll (answeredOk (.cmd b :: ts)) = (Controller.effect i c).afterAll (answeredOk ts) :=
  congrArg (fun d => Controller.afterAll d (answeredOk ts)) (Controller.after_op0 h.notLost h.idle hs)

/-- A ready controller takes a command with one operand off a list of transactions. -/
theorem Controller.Ready.op1 {c : Controller} (h : c.Ready) {b v : Byte} {f : Byte → Instr} (hs : commandShape b = some (.op1 f))
    (ts : List BusByte) :
    c.afterAll (answeredOk (.cmd b :: .cmd v :: ts)) = (Controller.effect (f v) c).afterAll (answeredOk ts) :=
  congrArg (fun d => Controller.afterAll d (answeredOk ts)) (Controller.after_op1 h.notLost h.idle hs)

/-- A ready controller takes a command with two operands off a list of transactions. -/
theorem Controller.Ready.op2 {c : Controller} (h : c.Ready) {b u v : Byte} {f : Byte → Byte → Instr}
    (hs : commandShape b = some (.op2 f)) (ts : List BusByte) :
    c.afterAll (answeredOk (.cmd b :: .cmd u :: .cmd v :: ts)) = (Controller.effect (f u v) c).afterAll (answeredOk ts) :=
  congrArg (fun d => Controller.afterAll d (answeredOk ts)) (Controller.after_op2 h.notLost h.idle hs)

/-- A table entry applied to as many operands as it takes is an instruction. -/
theorem decode_whole {b : Byte} {n : Nat} {ops : List Byte} (ho : operandCount b = some n) (hl : ops.length = n) :
    ∃ i, decode (.command (b :: ops)) = .instr i := by
  unfold operandCount at ho
  cases hs : commandShape b with
  | none => simp [hs] at ho
  | some sh =>
    simp only [hs, Option.map_some, Option.some.injEq] at ho
    simp only [decode, decodeCommand, hs]
    cases sh <;> simp only [CommandShape.operands] at ho <;> subst ho
    · obtain rfl := List.length_eq_zero_iff.1 hl; exact ⟨_, rfl⟩
    · obtain ⟨v, rfl⟩ := List.length_eq_one_iff.1 hl; exact ⟨_, rfl⟩
    · obtain ⟨u, v, rfl⟩ := List.length_eq_two.1 hl; exact ⟨_, rfl⟩

theorem Controller.gone_inv : Controller.gone.Inv where
  ramSize := List.length_replicate
  lostKnowsNothing _ := rfl
  columnOk := rfl
  pageOk := rfl
  parser h := by exact absurd h (by decide +kernel)

theorem Controller.powerUp_inv : Controller.powerUp.Inv where
  ramSize := List.length_replicate
  lostKnowsNothing h := by exact absurd h (by decide +kernel)
  columnOk := rfl
  pageOk := rfl
  parser _ := rfl

theorem pointerOk_advance {top p a b : Nat} (h : pointerOk top (.known p) (.known a) (.known b) = true) :
    pointerOk top (.known (if p < b then p + 1 else a)) (.known a) (.known b) = true := by
  simp only [pointerOk, Bool.and_eq_true, decide_eq_true_eq] at *
  split <;> omega

/-- Every controller row keeps the controller's invariant. -/
theorem Controller.effect_inv {c : Controller} (h : c.Inv) (hl : c.lost = false) (i : Instr) : (Controller.effect i c).Inv := by
  have hlost : ∀ {p : Prop}, c.lost = true → p := fun h => by rw [hl] at h; cases h
  cases i
  case setMemoryAddressingMode m =>
    show (if m = 0x00#8 then { c with mode := .known .horizontal } else Controller.gone).Inv
    split
    · exact ⟨h.ramSize, fun h => hlost h, h.columnOk, h.pageOk, h.parser⟩
    · exact Controller.gone_inv
  case setColumnAddress a b =>
    show (c.columnWindow a b).Inv
    unfold Controller.columnWindow; split
    · next hw => exact ⟨h.ramSize, fun h => hlost h, by simp [pointerOk, hw], h.pageOk, h.parser⟩
    · exact Controller.gone_inv
  case setPageAddress a b =>
    show (c.pageWindow a b).Inv
    unfold Controller.pageWindow; split
    · next hw => exact ⟨h.ramSize, fun h => hlost h, h.columnOk, by simp [pointerOk, hw], h.parser⟩
    · exact Controller.gone_inv
  case dataByte v =>
    show (c.receiveData v).Inv
    unfold Controller.receiveData; split
    · next hp hm hc hpg hcs hce hps hpe =>
      have h1 := h.columnOk
      have h2 := h.pageOk
      rw [hc, hcs, hce] at h1
      rw [hpg, hps, hpe] at h2
      refine ⟨by simp only [Controller.store, List.length_set]; exact h.ramSize, fun h => hlost h, ?_, ?_, h.parser⟩
      · simp only [Controller.store, hcs, hce]; exact pointerOk_advance h1
      · simp only [Controller.store, hps, hpe]
        split
        · exact h2
        · exact pointerOk_advance h2
    · exact Controller.gone_inv
  all_goals exact ⟨h.ramSize, fun h => hlost h, h.columnOk, h.pageOk, h.parser⟩

/-- A received transaction keeps the controller's invariant. -/
theorem Controller.after_inv {c : Controller} (h : c.Inv) (t : Txn) : (c.after t).Inv := by
  obtain ⟨r, b, a⟩ := t
  cases a with
  | fail => rw [Controller.after_fail]; exact Controller.gone_inv
  | ok =>
    cases hl : c.lost with
    | true => rw [Controller.after_lost hl]; exact h
    | false =>
      cases r with
      | data => rw [Controller.after_data hl]; exact Controller.effect_inv h hl (.dataByte b)
      | command =>
        have hpar := h.parser hl
        cases hp : c.parser with
        | unknown => rw [hp] at hpar; simp [parserOk] at hpar
        | idle =>
          cases ho : operandCount b with
          | none => rw [Controller.after_unknown hl hp ho]; exact Controller.gone_inv
          | some n =>
            cases n with
            | zero =>
              obtain ⟨i, hd⟩ := decode_whole (ops := []) ho rfl
              rw [Controller.after_single hl hp ho hd]; exact Controller.effect_inv h hl i
            | succ n =>
              rw [Controller.after_first hl hp ho]
              exact ⟨h.ramSize, fun hx => absurd hx (by simp [hl]), h.columnOk, h.pageOk, fun _ => by simp [parserOk, ho]⟩
        | need op n got =>
          rw [hp] at hpar
          simp only [parserOk, Bool.and_eq_true, decide_eq_true_eq] at hpar
          by_cases hn : (got ++ [b]).length = n
          · obtain ⟨i, hd⟩ := decode_whole hpar.1 hn
            rw [Controller.after_last hl hp hn hd]
            refine Controller.effect_inv (c := { c with parser := .idle }) ?_ hl i
            exact ⟨h.ramSize, fun hx => absurd hx (by simp [hl]), h.columnOk, h.pageOk, fun _ => rfl⟩
          · rw [Controller.after_operand hl hp hn]
            refine ⟨h.ramSize, fun hx => absurd hx (by simp [hl]), h.columnOk, h.pageOk, fun _ => ?_⟩
            simp only [List.length_append, List.length_singleton] at hn
            simp only [parserOk, hpar.1, decide_true, Bool.true_and, decide_eq_true_eq, List.length_append, List.length_singleton]
            omega

end Sys2Proof.Machine
end

