-- ==== Sys2Proof/Laws/FrameBuffer.lean ====
section
/-! SUPPORT. The frame buffer: what Plot and a list of plots do to a pixel, and that the pixels determine the buffer. -/
namespace Sys2Proof.Machine

theorem getLsbD_setBit {v : Byte} {b j : Nat} (hj : j < 8) (c : Bool) :
    (setBit v b c).getLsbD j = if j = b then c else v.getLsbD j := by
  cases c <;> simp [setBit, hj] <;> grind

theorem pixelIndex_lt {x y : Int} (h : InPanel x y) : pixelIndex x y < 1024 := by
  simp only [InPanel, pixelIndex, Config.W, Config.H] at *; omega

theorem pixelBit_lt (y : Int) : pixelBit y < 8 := by
  simp only [pixelBit]; omega

/-- The address map of 20_memory.md R50 is injective on the panel. -/
theorem pixel_injective {x y u v : Int} (h : InPanel x y) (h' : InPanel u v)
    (hi : pixelIndex x y = pixelIndex u v) (hb : pixelBit y = pixelBit v) : x = u ∧ y = v := by
  simp only [InPanel, pixelIndex, pixelBit, Config.W, Config.H] at *; omega

theorem Fb.length_plot (fb : List Byte) (x y : Int) (c : Bool) : (Fb.plot fb x y c).length = fb.length := by
  unfold Fb.plot; split <;> simp

theorem Fb.byteAt_set {fb : List Byte} {i j : Nat} (v : Byte) (hi : i < fb.length) :
    Fb.byteAt (fb.set i v) j = if j = i then v else Fb.byteAt fb j := by
  simp only [Fb.byteAt, List.getD_eq_getElem?_getD, List.getElem?_set]
  grind

/-- A plot outside the panel changes nothing (40_raster_pixel.md R101). -/
theorem Fb.plot_outside {fb : List Byte} {x y : Int} (c : Bool) (h : ¬ InPanel x y) : Fb.plot fb x y c = fb := if_neg h

/-- A plot writes its own pixel and no other. -/
theorem Fb.pixelOf_plot {fb : List Byte} (hl : fb.length = 1024) (x y : Int) (c : Bool) {u v : Int} (h : InPanel u v) :
    Fb.pixelOf (Fb.plot fb x y c) u v = if u = x ∧ v = y then c else Fb.pixelOf fb u v := by
  by_cases hp : InPanel x y
  · have hb := pixelBit_lt v
    unfold Fb.pixelOf Fb.plot
    rw [if_pos hp, Fb.byteAt_set _ (by rw [hl]; exact pixelIndex_lt hp)]
    by_cases hi : pixelIndex u v = pixelIndex x y
    · rw [if_pos hi, getLsbD_setBit hb]
      by_cases hq : pixelBit v = pixelBit y
      · rw [if_pos hq, if_pos (pixel_injective h hp hi hq)]
      · rw [if_neg hq, if_neg (by rintro ⟨rfl, rfl⟩; exact hq rfl), hi]
    · rw [if_neg hi, if_neg (by rintro ⟨rfl, rfl⟩; exact hi rfl)]
  · rw [Fb.plot_outside c hp, if_neg (by rintro ⟨rfl, rfl⟩; exact hp h)]

@[simp] theorem Fb.light_nil (fb : List Byte) : Fb.light fb [] = fb := rfl

@[simp] theorem Fb.light_cons (fb : List Byte) (p : Int × Int) (pts : List (Int × Int)) :
    Fb.light fb (p :: pts) = Fb.light (Fb.plot fb p.1 p.2 true) pts := rfl

theorem Fb.length_light (fb : List Byte) (pts : List (Int × Int)) : (Fb.light fb pts).length = fb.length := by
  induction pts generalizing fb with
  | nil => rfl
  | cons p pts ih => rw [Fb.light_cons, ih, Fb.length_plot]

/-- Lighting a list of points lights exactly those of them in panel, and clears none. -/
theorem Fb.pixelOf_light {fb : List Byte} (hl : fb.length = 1024) (pts : List (Int × Int)) {u v : Int} (h : InPanel u v) :
    Fb.pixelOf (Fb.light fb pts) u v = (Fb.pixelOf fb u v || decide ((u, v) ∈ pts)) := by
  induction pts generalizing fb with
  | nil => simp
  | cons p pts ih =>
    obtain ⟨x, y⟩ := p
    rw [Fb.light_cons, ih (by rw [Fb.length_plot, hl]), Fb.pixelOf_plot hl _ _ _ h]
    by_cases hp : u = x ∧ v = y
    · obtain ⟨rfl, rfl⟩ := hp; simp
    · rw [if_neg hp]; simp only [List.mem_cons, Prod.mk.injEq, hp, false_or]

/-- Two frame buffers with the same pixels are equal: the map of R50 covers every bit. -/
theorem Fb.ext_pixels {fb fb' : List Byte} (hl : fb.length = 1024) (hl' : fb'.length = 1024)
    (h : ∀ x y, InPanel x y → Fb.pixelOf fb x y = Fb.pixelOf fb' x y) : fb = fb' := by
  apply List.ext_getElem (by rw [hl, hl'])
  intro i hi hi'
  apply BitVec.eq_of_getLsbD_eq
  intro b hb
  have hp : InPanel ((i % 128 : Nat) : Int) ((i / 128 * 8 + b : Nat) : Int) := by
    simp only [InPanel, Config.W, Config.H]; omega
  have := h _ _ hp
  have h1 : pixelIndex ((i % 128 : Nat) : Int) ((i / 128 * 8 + b : Nat) : Int) = i := by
    simp only [pixelIndex, Config.W]; omega
  have h2 : pixelBit ((i / 128 * 8 + b : Nat) : Int) = b := by
    simp only [pixelBit]; omega
  simp only [Fb.pixelOf, h1, h2, Fb.byteAt, List.getD_eq_getElem?_getD, List.getElem?_eq_getElem hi,
    List.getElem?_eq_getElem hi', Option.getD_some] at this
  exact this

theorem length_fbResetDraw (n : Nat) : (fbResetDraw n).length = 1024 := by
  rw [fbResetDraw, List.length_map, List.length_range]

theorem Fb.byteAt_fbResetDraw (n : Nat) {i : Nat} (hi : i < 1024) : Fb.byteAt (fbResetDraw n) i = Config.fbReset n i := by
  rw [Fb.byteAt, fbResetDraw, List.getD_eq_getElem?_getD, List.getElem?_map, List.getElem?_range hi]
  rfl

theorem Fb.length_all (v : Byte) : (Fb.all v).length = 1024 := List.length_replicate

theorem Fb.byteAt_all (v : Byte) {i : Nat} (hi : i < 1024) : Fb.byteAt (Fb.all v) i = v := by
  unfold Fb.byteAt Fb.all
  rw [List.getD_eq_getElem?_getD, List.getElem?_replicate, if_pos (show i < Config.N from hi), Option.getD_some]

end Sys2Proof.Machine
end

