-- ==== Sys2Proof/Laws/Memory.lean ====
section
/-! SUPPORT. Source memory: read after write, and the canonical form kept by every operation. -/
namespace Sys2Proof.Machine

theorem Memory.lookup_insert (a : Nat) (b : Byte) (m : List Host.Cell) (x : Nat) :
    Memory.lookup (Memory.insert a b m) x = if x = a then b else Memory.lookup m x := by
  induction m with
  | nil => simp only [Memory.insert, Memory.lookup]; grind
  | cons c rest ih => obtain ⟨k, c⟩ := c; simp only [Memory.insert]; grind [Memory.lookup]

/-- In a list whose addresses all lie at or above `lo`, an address below `lo` is not listed. -/
theorem Memory.lookup_below {lo : Nat} {m : List Host.Cell} (h : Memory.wfFrom lo m = true) {x : Nat} (hx : x < lo) :
    Memory.lookup m x = Config.srcMem x := by
  induction m generalizing lo with
  | nil => rfl
  | cons c rest ih =>
    obtain ⟨k, c⟩ := c
    simp only [Memory.wfFrom, Bool.and_eq_true, decide_eq_true_eq] at h
    have hk : k ≠ x := by omega
    simp only [Memory.lookup, hk, if_false]
    exact ih h.2 (by omega)

theorem Memory.lookup_remove {lo : Nat} {m : List Host.Cell} (h : Memory.wfFrom lo m = true) (a x : Nat) :
    Memory.lookup (Memory.remove a m) x = if x = a then Config.srcMem a else Memory.lookup m x := by
  induction m generalizing lo with
  | nil => simp only [Memory.remove, Memory.lookup]; grind
  | cons c rest ih =>
    obtain ⟨k, c⟩ := c
    simp only [Memory.wfFrom, Bool.and_eq_true, decide_eq_true_eq] at h
    have hb := Memory.lookup_below h.2 (x := k) (by omega)
    have := ih h.2
    simp only [Memory.remove]
    grind [Memory.lookup]

/-- A lower bound may be lowered. -/
theorem Memory.wfFrom_mono {lo lo' : Nat} (hl : lo' ≤ lo) {m : List Host.Cell} (h : Memory.wfFrom lo m = true) :
    Memory.wfFrom lo' m = true := by
  cases m with
  | nil => rfl
  | cons c rest =>
    obtain ⟨k, c⟩ := c
    simp only [Memory.wfFrom, Bool.and_eq_true, decide_eq_true_eq] at h ⊢
    exact ⟨⟨⟨by omega, h.1.1.2⟩, h.1.2⟩, h.2⟩

theorem Memory.wfFrom_remove {lo : Nat} {m : List Host.Cell} (h : Memory.wfFrom lo m = true) (a : Nat) :
    Memory.wfFrom lo (Memory.remove a m) = true := by
  induction m generalizing lo with
  | nil => rfl
  | cons c rest ih =>
    obtain ⟨k, c⟩ := c
    simp only [Memory.wfFrom, Bool.and_eq_true, decide_eq_true_eq] at h
    simp only [Memory.remove]
    split
    · exact Memory.wfFrom_mono (by omega) h.2
    · simp only [Memory.wfFrom, Bool.and_eq_true, decide_eq_true_eq]
      exact ⟨h.1, ih h.2⟩

theorem Memory.wfFrom_insert {lo a : Nat} {b : Byte} {m : List Host.Cell} (h : Memory.wfFrom lo m = true)
    (hlo : lo ≤ a) (ha : a < 4294967296) (hb : b ≠ Config.srcMem a) : Memory.wfFrom lo (Memory.insert a b m) = true := by
  induction m generalizing lo with
  | nil => simp [Memory.insert, Memory.wfFrom, hlo, ha, hb]
  | cons c rest ih =>
    obtain ⟨k, c⟩ := c
    simp only [Memory.wfFrom, Bool.and_eq_true, decide_eq_true_eq] at h
    simp only [Memory.insert]
    split
    · simp only [Memory.wfFrom, Bool.and_eq_true, decide_eq_true_eq]
      exact ⟨h.1, ih h.2 (by omega)⟩
    · split
      · subst k
        simp only [Memory.wfFrom, Bool.and_eq_true, decide_eq_true_eq]
        exact ⟨⟨⟨hlo, ha⟩, hb⟩, h.2⟩
      · simp only [Memory.wfFrom, Bool.and_eq_true, decide_eq_true_eq]
        exact ⟨⟨⟨hlo, ha⟩, hb⟩, ⟨⟨by omega, h.1.1.2⟩, h.1.2⟩, h.2⟩

/-- A write keeps the canonical form. -/
theorem Memory.wf_write {m : List Host.Cell} (h : Memory.wf m = true) (a : BitVec 32) (b : Byte) :
    Memory.wf (Memory.write m a b) = true := by
  unfold Memory.wf Memory.write at *
  split
  · exact Memory.wfFrom_remove h _
  · exact Memory.wfFrom_insert h (Nat.zero_le _) a.isLt ‹_›

/-- A read after a write: the value written at its address, the old value at every other. -/
theorem Memory.read_write {m : List Host.Cell} (h : Memory.wf m = true) (a x : BitVec 32) (b : Byte) :
    Memory.read (Memory.write m a b) x = if x = a then b else Memory.read m x := by
  unfold Memory.read Memory.write
  split
  · rw [Memory.lookup_remove h]
    by_cases hx : x = a
    · subst hx; simp [*]
    · rw [if_neg hx, if_neg (fun he => hx (BitVec.eq_of_toNat_eq he))]
  · rw [Memory.lookup_insert]
    by_cases hx : x = a
    · subst hx; simp
    · rw [if_neg hx, if_neg (fun he => hx (BitVec.eq_of_toNat_eq he))]

/-- The reset state's source memory has the canonical form. -/
theorem Memory.wf_reset : Memory.wf State.reset.mem = true := rfl

end Sys2Proof.Machine
end

