-- ==== Sys2Proof/Laws/PerInstr.lean ====
section
/-! SUPPORT. The per-instruction family Framing: the fixed part of every instruction's encoding (30_encoding.md R71, R75, R79 to R81). -/
namespace Sys2Proof.Laws.Framing

/-- A request's word has its opcode in OP and zero in RSV; a command's first byte is in the table and is followed by as many operand bytes as the table says; the data byte is its own byte. -/
def Statement (i : Instr) : Prop :=
  match encode i with
  | .request w => i.isRequest = true ∧ reqOp w = Machine.opcodeOf i ∧ reqRsv w = 0#16
  | .command [] => False
  | .command (b :: ops) => i.isRequest = false ∧ operandCount b = some ops.length
  | .data v => i = .dataByte v

theorem setPixel (x y : Int) (color : Byte) : Statement (.setPixel x y color) := ⟨rfl, reqOp_packRequest .., reqRsv_packRequest ..⟩
theorem drawLine (x0 y0 x1 y1 : Int) : Statement (.drawLine x0 y0 x1 y1) := ⟨rfl, reqOp_packRequest .., reqRsv_packRequest ..⟩
theorem drawChar (x y : Int) (ch : Byte) : Statement (.drawChar x y ch) := ⟨rfl, reqOp_packRequest .., reqRsv_packRequest ..⟩
theorem drawString (x y : Int) (src : BitVec 32) (len : Nat) : Statement (.drawString x y src len) := ⟨rfl, reqOp_packRequest .., reqRsv_packRequest ..⟩
theorem drawBitmap (x y : Int) (src : BitVec 32) (w h : Nat) : Statement (.drawBitmap x y src w h) := ⟨rfl, reqOp_packRequest .., reqRsv_packRequest ..⟩
theorem fillFb : Statement .fillFb := ⟨rfl, reqOp_packRequest .., reqRsv_packRequest ..⟩
theorem clearFb : Statement .clearFb := ⟨rfl, reqOp_packRequest .., reqRsv_packRequest ..⟩
theorem init : Statement .init := ⟨rfl, reqOp_packRequest .., reqRsv_packRequest ..⟩
theorem display : Statement .display := ⟨rfl, reqOp_packRequest .., reqRsv_packRequest ..⟩
theorem setBrightness (level : Byte) : Statement (.setBrightness level) := ⟨rfl, reqOp_packRequest .., reqRsv_packRequest ..⟩
theorem fillDisplay : Statement .fillDisplay := ⟨rfl, reqOp_packRequest .., reqRsv_packRequest ..⟩
theorem clearDisplay : Statement .clearDisplay := ⟨rfl, reqOp_packRequest .., reqRsv_packRequest ..⟩
theorem displayOff : Statement .displayOff := ⟨rfl, rfl⟩
theorem displayOn : Statement .displayOn := ⟨rfl, rfl⟩
theorem setMemoryAddressingMode (m : Byte) : Statement (.setMemoryAddressingMode m) := ⟨rfl, rfl⟩
theorem setContrast (v : Byte) : Statement (.setContrast v) := ⟨rfl, rfl⟩
theorem setSegmentRemap : Statement .setSegmentRemap := ⟨rfl, rfl⟩
theorem setMultiplexRatio (v : Byte) : Statement (.setMultiplexRatio v) := ⟨rfl, rfl⟩
theorem setComScanRemapped : Statement .setComScanRemapped := ⟨rfl, rfl⟩
theorem setDisplayOffset (v : Byte) : Statement (.setDisplayOffset v) := ⟨rfl, rfl⟩
theorem setComPins (v : Byte) : Statement (.setComPins v) := ⟨rfl, rfl⟩
theorem setClockDivide (v : Byte) : Statement (.setClockDivide v) := ⟨rfl, rfl⟩
theorem setPrechargePeriod (v : Byte) : Statement (.setPrechargePeriod v) := ⟨rfl, rfl⟩
theorem setVcomhDeselect (v : Byte) : Statement (.setVcomhDeselect v) := ⟨rfl, rfl⟩
theorem resumeFromRam : Statement .resumeFromRam := ⟨rfl, rfl⟩
theorem normalDisplay : Statement .normalDisplay := ⟨rfl, rfl⟩
theorem setColumnAddress (first last : Byte) : Statement (.setColumnAddress first last) := ⟨rfl, rfl⟩
theorem setPageAddress (first last : Byte) : Statement (.setPageAddress first last) := ⟨rfl, rfl⟩
theorem forceEntireOn : Statement .forceEntireOn := ⟨rfl, by simp [operandCount, CommandShape.operands]⟩
theorem forceEntireOff : Statement .forceEntireOff := ⟨rfl, by simp [operandCount, CommandShape.operands]⟩
theorem dataByte (v : Byte) : Statement (.dataByte v) := rfl

end Sys2Proof.Laws.Framing
end

