-- ==== Sys2Proof/Laws/Points.lean ====
section
/-! SUPPORT. The points of glyphs, strings and bitmaps, and the glyph port. -/
namespace Sys2Proof.Machine

/-- The glyph port before a change (20_memory.md R53). -/
theorem glyphAt_eq_some {g : List Glyph} {ch : Byte} {v : Glyph} :
    glyphAt g ch = some v ↔ 32 ≤ ch.toNat ∧ ch.toNat ≤ 127 ∧ g[ch.toNat - 32]? = some v := by
  unfold glyphAt
  simp only [Config.chMin, Config.chMax]
  split
  · next h => simp [h]
  · next h => simp only [reduceCtorEq, false_iff]; omega

/-- The glyph port after the host changes a glyph: that code has the new glyph, every other its own. -/
theorem glyphAt_glyphWrite {g : List Glyph} (hl : g.length = 96) {ch : Byte} (h1 : 32 ≤ ch.toNat) (h2 : ch.toNat ≤ 127) (v : Glyph)
    (x : Byte) : glyphAt (glyphWrite g ch v) x = if x = ch then some v else glyphAt g x := by
  unfold glyphAt glyphWrite
  simp only [Config.chMin, Config.chMax, h1, h2, and_self, if_true]
  by_cases hx : x = ch
  · subst hx; simp only [h1, h2, and_self, if_true]; rw [List.getElem?_set_self]; omega
  · have hn : x.toNat ≠ ch.toNat := fun h => hx (BitVec.eq_of_toNat_eq h)
    rw [if_neg hx]
    split
    · rw [List.getElem?_set, if_neg (by omega)]
    · rfl

theorem length_glyphWrite (g : List Glyph) (ch : Byte) (v : Glyph) : (glyphWrite g ch v).length = g.length := by
  unfold glyphWrite; split <;> simp

/-- The address of source byte `j` (20_memory.md R52). -/
theorem srcAddr_eq (src : BitVec 32) (j : Nat) : srcAddr src j = BitVec.ofNat 32 (src.toNat + j) := by
  apply BitVec.eq_of_toNat_eq; simp [srcAddr]

/-- A point of a glyph is a set bit of one of its columns. -/
theorem mem_glyphPoints {g : Glyph} {x y u v : Int} :
    (u, v) ∈ glyphPoints g x y ↔
      ∃ col row : Nat, col < 5 ∧ row < 8 ∧ (g.column col).getLsbD row = true ∧ u = x + col ∧ v = y + row := by
  simp only [glyphPoints, List.mem_flatMap, List.mem_range, List.mem_filterMap, Config.glyphCols, Config.glyphRows]
  constructor
  · rintro ⟨col, hc, row, hr, h⟩
    split at h
    · next hb => simp only [Option.some.injEq, Prod.mk.injEq] at h; exact ⟨col, row, hc, hr, hb, h.1.symm, h.2.symm⟩
    · cases h
  · rintro ⟨col, row, hc, hr, hb, rfl, rfl⟩
    exact ⟨col, hc, row, hr, by rw [if_pos hb]⟩

/-- A point of a bitmap is a set bit of its image. -/
theorem mem_bitmapPoints {mem : List Host.Cell} {x y u v : Int} {src : BitVec 32} {w h : Nat} :
    (u, v) ∈ bitmapPoints mem x y src w h ↔
      ∃ col row : Nat, col < w ∧ row < h ∧ bitmapBit mem src w col row = true ∧ u = x + col ∧ v = y + row := by
  simp only [bitmapPoints, List.mem_flatMap, List.mem_range, List.mem_filterMap]
  constructor
  · rintro ⟨row, hr, col, hc, h⟩
    split at h
    · next hb => simp only [Option.some.injEq, Prod.mk.injEq] at h; exact ⟨col, row, hc, hr, hb, h.1.symm, h.2.symm⟩
    · cases h
  · rintro ⟨col, row, hc, hr, hb, rfl, rfl⟩
    exact ⟨row, hr, col, hc, by rw [if_pos hb]⟩

end Sys2Proof.Machine
end

