-- ==== Sys2Proof/Laws/Step.lean ====
section
/-! SUPPORT. Everything one step can do, said once: the cases a step falls into, with the whole next state of each. -/
namespace Sys2Proof.Machine

/-- The cases of a step from `s` to `t`. -/
inductive StepCase (s t : State) : Prop where
  /-- The controller receives the oldest transaction. -/
  | receive (x : Txn) (rest : List Txn) (hi : s.inbox = x :: rest)
      (ht : t = { s with inbox := rest, ctl := s.ctl.after x })
  /-- Nothing to do. -/
  | idle (hi : s.inbox = []) (hs : s.seq = .idle) (hp : s.port = []) (ht : t = s)
  /-- A rasterizer request. -/
  | raster (w : RequestWord) (rest : List RequestWord) (i : Instr) (fb : List Byte)
      (hi : s.inbox = []) (hs : s.seq = .idle) (hp : s.port = w :: rest) (hd : decode (.request w) = .instr i)
      (hr : i.isRaster = true) (hl : s.fb.length = 1024 → fb.length = 1024)
      (ht : t = State.finishRaster { s with port := rest, req := w } (opcodeOf i) fb)
  /-- A rejected word, or a device request in UNINIT. -/
  | raised (w r : RequestWord) (rest : List RequestWord) (op code : Byte)
      (hi : s.inbox = []) (hs : s.seq = .idle) (hp : s.port = w :: rest) (hc : code.toNat ≤ 3)
      (ht : t = State.raise { s with port := rest, req := r } op code)
  /-- An accepted device request. -/
  | started (w : RequestWord) (rest : List RequestWord) (op : DeviceOp)
      (hi : s.inbox = []) (hs : s.seq = .idle) (hp : s.port = w :: rest) (ha : op ≠ .init → s.pstate = .active)
      (hd : decode (.request w) = .instr (op.instr w))
      (ht : t = State.startDevice { s with port := rest, req := w } op)
  /-- A bus write answered `ok`, not the last of its request. -/
  | more (op : DeviceOp) (k : Nat) (b : BusByte)
      (hi : s.inbox = []) (hs : s.seq = .busy op k) (hb : (requestTxns op s)[k]? = some b) (ha : s.nextAnswer = .ok)
      (hk : k + 1 < (requestTxns op s).length) (ht : t = { s.busWrite b with seq := .busy op (k + 1) })
  /-- The last bus write of a request, answered `ok`. -/
  | last (op : DeviceOp) (k : Nat) (b : BusByte)
      (hi : s.inbox = []) (hs : s.seq = .busy op k) (hb : (requestTxns op s)[k]? = some b) (ha : s.nextAnswer = .ok)
      (hk : (requestTxns op s).length = k + 1) (ht : t = (onOk op s.req (s.busWrite b)).complete 0#16 op.code Status.OK)
  /-- A bus write answered `fail`. -/
  | failed (op : DeviceOp) (k : Nat) (b : BusByte)
      (hi : s.inbox = []) (hs : s.seq = .busy op k) (hb : (requestTxns op s)[k]? = some b) (ha : s.nextAnswer = .fail)
      (ht : t = (onFail op (s.busWrite b)).complete (BitVec.ofNat 16 k) op.code Status.TRANSPORT_FAILURE)
  /-- A position past the sequence, which the invariant rules out. -/
  | past (op : DeviceOp) (k : Nat) (hi : s.inbox = []) (hs : s.seq = .busy op k)
      (hb : (requestTxns op s).length ≤ k) (ht : t = (onOk op s.req s).complete 0#16 op.code Status.OK)

/-- A rasterizer request completes with its frame buffer. -/
theorem exec_raster {i : Instr} (hi : i.isRaster = true) (s : State) :
    ∃ fb, (s.fb.length = 1024 → fb.length = 1024) ∧ exec i s = .next (s.finishRaster (opcodeOf i) fb) := by
  cases i <;> simp only [Instr.isRaster, Bool.false_eq_true] at hi
  case setPixel x y c => exact ⟨Fb.plot s.fb x y _, fun h => by rw [Fb.length_plot, h], rfl⟩
  case fillFb => exact ⟨Fb.all 0xFF#8, fun _ => Fb.length_all _, rfl⟩
  case clearFb => exact ⟨Fb.all 0x00#8, fun _ => Fb.length_all _, rfl⟩
  all_goals exact ⟨Fb.light s.fb _, fun h => by rw [Fb.length_light, h], rfl⟩

/-- One line of the decoder: it answers its instruction, or goes on. -/
theorem Decoded.of_line {c : Prop} [Decidable c] {d e : Decoded} {i : Instr} (h : (if c then d else e) = .instr i) :
    d = .instr i ∨ e = .instr i := by
  split at h
  · exact .inl h
  · exact .inr h

/-- What the decoder reads from a request word is a rasterizer request or a device request with the word's operand. -/
theorem decode_request_cases {w : RequestWord} {i : Instr} (h : decode (.request w) = .instr i) :
    i.isRaster = true ∨ ∃ op : DeviceOp, i = op.instr w := by
  replace h : decodeRequest w = .instr i := h
  unfold decodeRequest at h
  iterate 13 (obtain h | h := Decoded.of_line h; rotate_left)
  all_goals cases h
  all_goals first
    | exact .inl rfl
    | exact .inr ⟨.init, rfl⟩
    | exact .inr ⟨.display, rfl⟩
    | exact .inr ⟨.setBrightness, rfl⟩
    | exact .inr ⟨.fillDisplay, rfl⟩
    | exact .inr ⟨.clearDisplay, rfl⟩

/-- A device request in IDLE starts, or is misuse. -/
theorem exec_device_idle {s : State} (h : s.seq = .idle) (op : DeviceOp) (req : RequestWord) :
    exec (op.instr req) s = .next (if op = .init ∨ s.pstate = .active then s.startDevice op
      else s.raise op.code Status.PROTOCOL_MISUSE) := by
  cases op <;>
    simp only [DeviceOp.instr, exec, execInit, execDisplay, execSetBrightness, execFillDisplay, execClearDisplay, h,
      Seq.position_idle, State.startActive, true_or, reduceCtorEq, false_or, if_true]

/-- The inversion of a step. -/
theorem step_cases {s t : State} (h : step s = .next t) : StepCase s t := by
  cases hi : s.inbox with
  | cons x rest =>
    rw [step_receive hi] at h
    injection h with h
    exact .receive x rest hi h.symm
  | nil =>
    cases hs : s.seq with
    | busy op k =>
      rw [step_busy hi hs] at h
      injection h with h
      cases hb : (requestTxns op s)[k]? with
      | none =>
        refine .past op k hi hs (List.getElem?_eq_none_iff.1 hb) ?_
        rw [← h, State.sendStep, hb]
      | some b =>
        cases ha : s.nextAnswer with
        | fail => exact .failed op k b hi hs hb ha (by rw [← h, State.sendStep_fail hb ha])
        | ok =>
          have hlt := (List.getElem?_eq_some_iff.1 hb).1
          by_cases hk : k + 1 < (requestTxns op s).length
          · exact .more op k b hi hs hb ha hk (by rw [← h, State.sendStep_more hb ha hk])
          · exact .last op k b hi hs hb ha (by omega) (by rw [← h, State.sendStep_last hb ha (by omega)])
    | idle =>
      cases hp : s.port with
      | nil =>
        rw [step_of_done (fetch_idle hi hs hp)] at h
        injection h with h
        exact .idle hi hs hp h.symm
      | cons w rest =>
        rcases step_accept hi hs hp with ⟨i, hd, he⟩ | ⟨r, hd, he⟩
        · rw [he] at h
          rcases decode_request_cases hd with hr | ⟨op, rfl⟩
          · obtain ⟨fb, hl, hx⟩ := exec_raster hr { s with port := rest, req := w }
            rw [hx] at h
            injection h with h
            exact .raster w rest i fb hi hs hp hd hr hl h.symm
          · rw [exec_device_idle (s := { s with port := rest, req := w }) hs] at h
            injection h with h
            split at h
            · next ho => exact .started w rest op hi hs hp (fun hne => ho.resolve_left hne) hd h.symm
            · exact .raised w w rest _ _ hi hs hp (by decide) h.symm
        · rw [he] at h
          injection h with h
          exact .raised w s.req rest _ _ hi hs hp (by decide) h.symm

end Sys2Proof.Machine
end

