-- ==== Sys2Proof/Tests/Slice0.lean ====
section
/-! SUPPORT. The model's own tests: ill-formed terms, written-out words, single steps with results from 95_test_vectors.md, and a witness for the hypotheses of every statement. -/
namespace Sys2Proof.Tests
open Sys2Proof Sys2Proof.Machine

-- Each kernel evaluation below would hold a thread of its own.
set_option Elab.async false

/-! ### WellFormed refuses an ill-formed term for each of its checks (30_encoding.md R74) -/

theorem test_wf_setPixel_x : ¬ WellFormed (.setPixel 32768 0 1#8) := by decide
theorem test_wf_setPixel_y : ¬ WellFormed (.setPixel 0 (-32769) 1#8) := by decide
theorem test_wf_drawLine_x0 : ¬ WellFormed (.drawLine (-32769) 0 0 0) := by decide
theorem test_wf_drawLine_y0 : ¬ WellFormed (.drawLine 0 32768 0 0) := by decide
theorem test_wf_drawLine_x1 : ¬ WellFormed (.drawLine 0 0 32768 0) := by decide
theorem test_wf_drawLine_y1 : ¬ WellFormed (.drawLine 0 0 0 (-32769)) := by decide
theorem test_wf_drawChar_x : ¬ WellFormed (.drawChar 32768 0 0x41#8) := by decide
theorem test_wf_drawChar_y : ¬ WellFormed (.drawChar 0 32768 0x41#8) := by decide
theorem test_wf_drawString_x : ¬ WellFormed (.drawString (-32769) 0 0#32 0) := by decide
theorem test_wf_drawString_y : ¬ WellFormed (.drawString 0 (-32769) 0#32 0) := by decide
theorem test_wf_drawString_len : ¬ WellFormed (.drawString 0 0 0#32 65536) := by decide
theorem test_wf_drawBitmap_x : ¬ WellFormed (.drawBitmap 32768 0 0#32 1 1) := by decide
theorem test_wf_drawBitmap_y : ¬ WellFormed (.drawBitmap 0 32768 0#32 1 1) := by decide
theorem test_wf_drawBitmap_w : ¬ WellFormed (.drawBitmap 0 0 0#32 65536 1) := by decide
theorem test_wf_drawBitmap_h : ¬ WellFormed (.drawBitmap 0 0 0#32 1 65536) := by decide
theorem test_wf_bounds : WellFormed (.drawLine (-32768) 32767 32767 (-32768)) ∧ WellFormed (.drawBitmap 0 0 0#32 65535 65535) := by
  decide

/-! ### A word of every constructor, written out field by field: RSV, S, D, C, B, A, K, OP (30_encoding.md R71, R72, R79) -/

theorem test_decode_setPixel : decode (.request (0x0000#16 ++ 0x00000000#32 ++ 0x0000#16 ++ 0x0000#16 ++ 0x000D#16 ++ 0xFFFB#16 ++ 0x80#8 ++ 0x01#8)) =
    .instr (.setPixel (-5) 13 0x80#8) := by decide +kernel
theorem test_decode_drawLine : decode (.request (0x0000#16 ++ 0x00000000#32 ++ 0x8000#16 ++ 0x7FFF#16 ++ 0x0002#16 ++ 0xFFFF#16 ++ 0x00#8 ++ 0x02#8)) =
    .instr (.drawLine (-1) 2 32767 (-32768)) := by decide +kernel
theorem test_decode_drawChar : decode (.request (0x0000#16 ++ 0x00000000#32 ++ 0x0000#16 ++ 0x0000#16 ++ 0xFFFD#16 ++ 0x007D#16 ++ 0x41#8 ++ 0x03#8)) =
    .instr (.drawChar 125 (-3) 0x41#8) := by decide +kernel
theorem test_decode_drawString : decode (.request (0x0000#16 ++ 0x12345678#32 ++ 0x0000#16 ++ 0xFFFF#16 ++ 0x0008#16 ++ 0x0003#16 ++ 0x00#8 ++ 0x04#8)) =
    .instr (.drawString 3 8 0x12345678#32 65535) := by decide +kernel
theorem test_decode_drawBitmap : decode (.request (0x0000#16 ++ 0x80002000#32 ++ 0x8000#16 ++ 0x0008#16 ++ 0x003E#16 ++ 0x007E#16 ++ 0x00#8 ++ 0x05#8)) =
    .instr (.drawBitmap 126 62 0x80002000#32 8 32768) := by decide +kernel
/-- An unused field is ignored (95_test_vectors.md 2.1). -/
theorem test_decode_fillFb : decode (.request (0x0000#16 ++ 0x00000000#32 ++ 0x0000#16 ++ 0x0000#16 ++ 0x0000#16 ++ 0x0000#16 ++ 0xAA#8 ++ 0x06#8)) =
    .instr .fillFb := by decide +kernel
theorem test_decode_clearFb : decode (.request (0x0000#16 ++ 0xFFFFFFFF#32 ++ 0x0000#16 ++ 0x0000#16 ++ 0x0000#16 ++ 0x0000#16 ++ 0x00#8 ++ 0x07#8)) =
    .instr .clearFb := by decide +kernel
theorem test_decode_init : decode (.request (0x0000#16 ++ 0x00000000#32 ++ 0x0000#16 ++ 0x0000#16 ++ 0x0000#16 ++ 0x0000#16 ++ 0x00#8 ++ 0x10#8)) =
    .instr .init := by decide +kernel
theorem test_decode_display : decode (.request (0x0000#16 ++ 0x00000000#32 ++ 0x0000#16 ++ 0x0000#16 ++ 0x0000#16 ++ 0x0000#16 ++ 0x00#8 ++ 0x11#8)) =
    .instr .display := by decide +kernel
theorem test_decode_setBrightness : decode (.request (0x0000#16 ++ 0x00000000#32 ++ 0x0000#16 ++ 0x0000#16 ++ 0x0000#16 ++ 0x0000#16 ++ 0xFF#8 ++ 0x12#8)) =
    .instr (.setBrightness 0xFF#8) := by decide +kernel
theorem test_decode_fillDisplay : decode (.request (0x0000#16 ++ 0x00000000#32 ++ 0x0000#16 ++ 0x0000#16 ++ 0x0000#16 ++ 0x0000#16 ++ 0x00#8 ++ 0x13#8)) =
    .instr .fillDisplay := by decide +kernel
theorem test_decode_clearDisplay : decode (.request (0x0000#16 ++ 0x00000000#32 ++ 0x0000#16 ++ 0x0000#16 ++ 0x0000#16 ++ 0x0000#16 ++ 0x00#8 ++ 0x14#8)) =
    .instr .clearDisplay := by decide +kernel
theorem test_decode_displayOff : decode (.command [0xAE#8]) = .instr .displayOff := by decide +kernel
theorem test_decode_displayOn : decode (.command [0xAF#8]) = .instr .displayOn := by decide +kernel
theorem test_decode_setMemoryAddressingMode : decode (.command [0x20#8, 0x00#8]) = .instr (.setMemoryAddressingMode 0x00#8) := by decide +kernel
theorem test_decode_setContrast : decode (.command [0x81#8, 0x10#8]) = .instr (.setContrast 0x10#8) := by decide +kernel
theorem test_decode_setSegmentRemap : decode (.command [0xA1#8]) = .instr .setSegmentRemap := by decide +kernel
theorem test_decode_setMultiplexRatio : decode (.command [0xA8#8, 0x3F#8]) = .instr (.setMultiplexRatio 0x3F#8) := by decide +kernel
theorem test_decode_setComScanRemapped : decode (.command [0xC8#8]) = .instr .setComScanRemapped := by decide +kernel
theorem test_decode_setDisplayOffset : decode (.command [0xD3#8, 0x01#8]) = .instr (.setDisplayOffset 0x01#8) := by decide +kernel
theorem test_decode_setComPins : decode (.command [0xDA#8, 0x12#8]) = .instr (.setComPins 0x12#8) := by decide +kernel
theorem test_decode_setClockDivide : decode (.command [0xD5#8, 0x80#8]) = .instr (.setClockDivide 0x80#8) := by decide +kernel
theorem test_decode_setPrechargePeriod : decode (.command [0xD9#8, 0x22#8]) = .instr (.setPrechargePeriod 0x22#8) := by decide +kernel
theorem test_decode_setVcomhDeselect : decode (.command [0xDB#8, 0x20#8]) = .instr (.setVcomhDeselect 0x20#8) := by decide +kernel
theorem test_decode_resumeFromRam : decode (.command [0xA4#8]) = .instr .resumeFromRam := by decide +kernel
theorem test_decode_normalDisplay : decode (.command [0xA6#8]) = .instr .normalDisplay := by decide +kernel
theorem test_decode_setColumnAddress : decode (.command [0x21#8, 0x05#8, 0x7F#8]) = .instr (.setColumnAddress 0x05#8 0x7F#8) := by decide +kernel
theorem test_decode_setPageAddress : decode (.command [0x22#8, 0x01#8, 0x07#8]) = .instr (.setPageAddress 0x01#8 0x07#8) := by decide +kernel
theorem test_decode_forceEntireOn : decode (.command [pFillDisplayCmd]) = .instr .forceEntireOn := by
  simp [decode, decodeCommand, CommandShape.build]
theorem test_decode_forceEntireOff : decode (.command [pClearDisplayCmd]) = .instr .forceEntireOff := by
  simp [decode, decodeCommand, CommandShape.build]
theorem test_decode_dataByte : decode (.data 0x5F#8) = .instr (.dataByte 0x5F#8) := rfl
/-- Rejections: OP 0x00, OP 0xFF, RSV (95_test_vectors.md 2.1), a missing and a surplus operand byte. -/
theorem test_decode_rejects :
    decode (.request 0#128) = .reject .illegalOpcode ∧ decode (.request 0xFF#128) = .reject .illegalOpcode ∧
    decode (.request 0x80000000000000000000000000000011#128) = .reject .reservedBits ∧
    decode (.command []) = .reject .wrongOperandCount ∧ decode (.command [0x81#8]) = .reject .wrongOperandCount ∧
    decode (.command [0xAE#8, 0x00#8]) = .reject .wrongOperandCount := by decide +kernel
/-- The table's rows as the opcode table numbers their bits. -/
theorem test_decodeTableWord :
    decodeTableWord 128 0x0000000000000000000000000d00050101 = some (.setPixel 5 13 1#8) ∧
    decodeTableWord 8 0xAE = some .displayOff ∧ decodeTableWord 16 0x1081 = some (.setContrast 0x10#8) ∧
    decodeTableWord 24 0x7F0021 = some (.setColumnAddress 0x00#8 0x7F#8) ∧ decodeTableWord 8 0x00 = some (.dataByte 0x00#8) ∧
    decodeTableWord 128 0x08 = none := by decide +kernel

/-! ### Small states -/

/-- The test font of 95_test_vectors.md. -/
def font : List Glyph :=
  (List.range 96).map fun k =>
    if k = 0x41 - 32 then ⟨0x7E#8, 0x11#8, 0x11#8, 0x11#8, 0x7E#8⟩
    else if k = 0x21 - 32 then ⟨0x00#8, 0x00#8, 0x5F#8, 0x00#8, 0x00#8⟩
    else ⟨0x00#8, 0x00#8, 0x00#8, 0x00#8, 0x00#8⟩

/-- A cleared frame buffer, the test font, and everything else as after reset. -/
def blank : State := { State.reset with fb := List.replicate 1024 0#8, glyph := font }

/-- `blank` with some source bytes listed. -/
def withBytes (cells : List Host.Cell) : State := { blank with mem := cells }

/-- A controller that listens, its addressing mode horizontal. -/
def ready : Controller := { Controller.powerUp with mode := .known .horizontal }

/-- A state in ACTIVE with a listening controller and some settled answers. -/
def active (ans : List Answer) : State :=
  { blank with
    pstate := .active, addrMode := .known .horizontal, power := .known .on, dispSrc := .known .buffer
    answers := ans, ctl := ready }

/-- A device request in progress. -/
def busy (op : DeviceOp) (k : Nat) (ans : List Answer) : State := { active ans with seq := .busy op k }

/-- A controller change on `blank`. -/
def onBlank (c : Controller) : State := { blank with ctl := c }

/-- The next state, where there is one. -/
def nextOf (o : Host.Outcome State Fault Refusal) : Option State :=
  match o with
  | .next s => some s
  | .fault _ => none
  | .refused _ => none

/-- The nonzero frame-buffer bytes with their indices. -/
def nonzero (fb : List Byte) : List (Nat × Nat) :=
  fb.zipIdx.filterMap fun p => if p.1 = 0#8 then none else some (p.2, p.1.toNat)

/-- The nonzero bytes and STATUS after a step of an instruction. -/
def after (i : Instr) (s : State) : Option (List (Nat × Nat) × BitVec 32) :=
  (nextOf (exec i s)).map fun t => (nonzero t.fb, t.status)

/-! ### Rasterizer requests (95_test_vectors.md 2.2 to 2.7) -/

theorem test_setPixel_sets : after (.setPixel 5 13 1#8) blank = some ([(133, 0x20)], 0x00000100#32) := by decide +kernel
theorem test_setPixel_corner : after (.setPixel 127 63 0x80#8) blank = some ([(1023, 0x80)], 0x00000100#32) := by decide +kernel
theorem test_drawLine_down : after (.drawLine 10 20 13 17) blank =
    some ([(266, 0x10), (267, 0x08), (268, 0x04), (269, 0x02)], 0x00000200#32) := by decide +kernel
theorem test_drawLine_swapped : after (.drawLine 5 2 0 0) blank =
    some ([(0, 0x01), (1, 0x01), (2, 0x02), (3, 0x02), (4, 0x04), (5, 0x04)], 0x00000200#32) := by decide +kernel
theorem test_drawChar_pages : after (.drawChar 0 3 0x41#8) blank =
    some ([(0, 0xF0), (1, 0x88), (2, 0x88), (3, 0x88), (4, 0xF0), (128, 0x03), (132, 0x03)], 0x00000300#32) := by decide +kernel
theorem test_drawChar_skips : after (.drawChar 0 0 128#8) blank = some ([], 0x00000300#32) := by decide +kernel
/-- "A", a byte that is skipped, "A". -/
theorem test_drawString_skips :
    after (.drawString 0 0 0x1000#32 3) (withBytes [(0x1000, 0x41#8), (0x1001, 0x0A#8), (0x1002, 0x41#8)]) =
      some ([(0, 0x7E), (1, 0x11), (2, 0x11), (3, 0x11), (4, 0x7E), (12, 0x7E), (13, 0x11), (14, 0x11), (15, 0x11), (16, 0x7E)],
        0x00000400#32) := by decide +kernel
theorem test_drawString_wraps :
    after (.drawString 0 0 0xFFFFFFFF#32 2) (withBytes [(0, 0x21#8), (0xFFFFFFFF, 0x41#8)]) =
      some ([(0, 0x7E), (1, 0x11), (2, 0x11), (3, 0x11), (4, 0x7E), (8, 0x5F)], 0x00000400#32) := by decide +kernel
theorem test_drawBitmap_padding :
    after (.drawBitmap 0 0 0x2000#32 3 2) (withBytes [(0x2000, 0xBF#8), (0x2001, 0x5F#8)]) =
      some ([(0, 0x01), (1, 0x02), (2, 0x01)], 0x00000500#32) := by decide +kernel
theorem test_drawBitmap_stride :
    after (.drawBitmap 0 0 0x2000#32 9 1) (withBytes [(0x2000, 0x80#8), (0x2001, 0x80#8)]) =
      some ([(0, 0x01), (8, 0x01)], 0x00000500#32) := by decide +kernel
theorem test_fillFb : (nextOf (exec .fillFb blank)).map (fun t => (t.fb == List.replicate 1024 0xFF#8, t.status)) =
    some (true, 0x00000600#32) := by decide +kernel
theorem test_clearFb : after .clearFb { blank with fb := List.replicate 1024 0x5A#8 } = some ([], 0x00000700#32) := by
  decide +kernel

/-! ### Device requests (95_test_vectors.md 2.8 to 2.11) -/

/-- Transaction 3 of INIT fails: STATUS 0x00031001, UNINIT. -/
theorem test_init_fails : (nextOf (exec .init (busy .init 3 [.fail]))).map (fun t => (t.status, t.pstate, t.trace)) =
    some (0x00031001#32, .uninit, [⟨.command, 0x81#8, .fail⟩]) := by decide +kernel
theorem test_init_completes :
    (nextOf (exec .init (busy .init 21 [.ok]))).map (fun t => (t.status, t.pstate, t.contrast, t.trace)) =
      some (0x00001000#32, .active, .known 0x10#8, [⟨.command, 0xAF#8, .ok⟩]) := by decide +kernel
/-- Transaction 7 of DISPLAY is FB[1]; it fails: STATUS 0x00071101. -/
theorem test_display_fails :
    (nextOf (exec .display { busy .display 7 [.fail] with fb := [0x11#8, 0x22#8] ++ List.replicate 1022 0#8 })).map
      (fun t => (t.status, t.pstate, t.trace)) = some (0x00071101#32, .active, [⟨.data, 0x22#8, .fail⟩]) := by decide +kernel
theorem test_display_misuse : (nextOf (exec .display blank)).map (fun t => (t.status, t.trace)) = some (0x00001102#32, []) := by
  decide +kernel
theorem test_setBrightness_fails :
    (nextOf (exec (.setBrightness 0x40#8) (busy .setBrightness 1 [.fail]))).map (fun t => (t.status, t.contrast, t.pstate, t.trace)) =
      some (0x00011201#32, .unknown, .active, [⟨.command, 0x40#8, .fail⟩]) := by decide +kernel
theorem test_setBrightness_completes :
    (nextOf (exec (.setBrightness 0xFF#8) (busy .setBrightness 1 [.ok]))).map (fun t => (t.status, t.contrast)) =
      some (0x00001200#32, .known 0xFF#8) := by decide +kernel
theorem test_fillDisplay : (nextOf (exec .fillDisplay (busy .fillDisplay 0 [.ok]))).map (fun t => (t.status, t.dispSrc)) =
    some (0x00001300#32, .known .forcedOn) := by decide +kernel
theorem test_fillDisplay_fails : (nextOf (exec .fillDisplay (busy .fillDisplay 0 [.fail]))).map (fun t => (t.status, t.dispSrc)) =
    some (0x00001301#32, .unknown) := by decide +kernel
theorem test_clearDisplay : (nextOf (exec .clearDisplay (busy .clearDisplay 0 [.ok]))).map (fun t => (t.status, t.dispSrc)) =
    some (0x00001400#32, .known .forcedOff) := by decide +kernel
theorem test_clearDisplay_misuse : (nextOf (exec .clearDisplay blank)).map (fun t => (t.status, t.trace)) =
    some (0x00001402#32, []) := by decide +kernel

/-! ### The controller (44_controller_receiver.md; 95_test_vectors.md 2.12) -/

/-- A field of the controller after a step of an instruction. -/
def ctlAfter {α : Type} (f : Controller → α) (i : Instr) (c : Controller) : Option α :=
  (nextOf (exec i (onBlank c))).map fun t => f t.ctl

theorem test_displayOff : ctlAfter (fun c => (c.dispOn, c.entire)) .displayOff { ready with entire := .known .forcedOff } =
    some (.known .off, .unknown) := by decide +kernel
theorem test_displayOn : ctlAfter (fun c => (c.dispOn, c.entire)) .displayOn { ready with entire := .known .forcedOn } =
    some (.known .on, .known .forcedOn) := by decide +kernel
theorem test_setMemoryAddressingMode : ctlAfter (fun c => (c.mode, c.lost)) (.setMemoryAddressingMode 0x00#8) Controller.powerUp =
    some (.known .horizontal, false) := by decide +kernel
theorem test_setMemoryAddressingMode_lost : ctlAfter (fun c => (c.mode, c.lost)) (.setMemoryAddressingMode 0x01#8) ready =
    some (.unknown, true) := by decide +kernel
theorem test_setContrast : ctlAfter (fun c => (c.contrast, c.mux)) (.setContrast 0xAE#8) ready = some (.known 0xAE#8, .unknown) := by
  decide +kernel
theorem test_setSegmentRemap : ctlAfter (fun c => (c.segRemap, c.comRemap)) .setSegmentRemap ready = some (.known .set, .unknown) := by
  decide +kernel
theorem test_setMultiplexRatio : ctlAfter (fun c => (c.mux, c.offset)) (.setMultiplexRatio 0x3F#8) ready =
    some (.known 0x3F#8, .unknown) := by decide +kernel
theorem test_setComScanRemapped : ctlAfter (fun c => (c.segRemap, c.comRemap)) .setComScanRemapped ready =
    some (.unknown, .known .set) := by decide +kernel
theorem test_setDisplayOffset : ctlAfter (fun c => (c.offset, c.mux)) (.setDisplayOffset 0x00#8) ready =
    some (.known 0x00#8, .unknown) := by decide +kernel
theorem test_setComPins : ctlAfter (fun c => (c.compins, c.vcomh)) (.setComPins 0x12#8) ready = some (.known 0x12#8, .unknown) := by
  decide +kernel
theorem test_setClockDivide : ctlAfter (fun c => (c.clkdiv, c.precharge)) (.setClockDivide 0x80#8) ready =
    some (.known 0x80#8, .unknown) := by decide +kernel
theorem test_setPrechargePeriod : ctlAfter (fun c => (c.precharge, c.clkdiv)) (.setPrechargePeriod 0x22#8) ready =
    some (.known 0x22#8, .unknown) := by decide +kernel
theorem test_setVcomhDeselect : ctlAfter (fun c => (c.vcomh, c.compins)) (.setVcomhDeselect 0x20#8) ready =
    some (.known 0x20#8, .unknown) := by decide +kernel
theorem test_resumeFromRam : ctlAfter Controller.entire .resumeFromRam { ready with entire := .known .forcedOn } =
    some (.known .ram) := by decide +kernel
theorem test_resumeFromRam_forcedOff : ctlAfter Controller.entire .resumeFromRam { ready with entire := .known .forcedOff } =
    some .unknown := by decide +kernel
theorem test_normalDisplay : ctlAfter (fun c => (c.invert, c.entire)) .normalDisplay ready = some (.known .normal, .unknown) := by
  decide +kernel
theorem test_setColumnAddress : ctlAfter (fun c => (c.col, c.cs, c.ce, c.page)) (.setColumnAddress 0x05#8 0x7F#8) ready =
    some (.known 5, .known 5, .known 127, .unknown) := by decide +kernel
theorem test_setColumnAddress_lost : ctlAfter Controller.lost (.setColumnAddress 0x05#8 0x02#8) ready = some true := by decide +kernel
theorem test_setPageAddress : ctlAfter (fun c => (c.page, c.ps, c.pe, c.col)) (.setPageAddress 0x01#8 0x07#8) ready =
    some (.known 1, .known 1, .known 7, .unknown) := by decide +kernel
theorem test_setPageAddress_lost : ctlAfter Controller.lost (.setPageAddress 0x00#8 0x08#8) ready = some true := by decide +kernel
theorem test_forceEntireOn : ctlAfter Controller.entire .forceEntireOn ready = some (.known .forcedOn) := by decide +kernel
theorem test_forceEntireOff : ctlAfter Controller.entire .forceEntireOff ready = some (.known .forcedOff) := by decide +kernel

/-- A controller with a window of two columns and two pages, its pointer at a given place of it. -/
def windowed (col page : Nat) : Controller :=
  { ready with cs := .known 126, ce := .known 127, ps := .known 6, pe := .known 7, col := .known col, page := .known page }

theorem test_dataByte_next_page :
    ctlAfter (fun c => (c.ram.getD (6 * 128 + 127) .unknown, c.col, c.page)) (.dataByte 0x5F#8) (windowed 127 6) =
      some (.known 0x5F#8, .known 126, .known 7) := by decide +kernel
/-- Power-up, then a data byte: LOST. -/
theorem test_dataByte_lost : ctlAfter Controller.lost (.dataByte 0x00#8) Controller.powerUp = some true := by decide +kernel
/-- `C(81) C(AE)`: the second byte is the operand, not DisplayOff. -/
theorem test_operand_is_not_a_command :
    (nextOf (step { onBlank { ready with parser := .need 0x81#8 1 [] } with inbox := [⟨.command, 0xAE#8, .ok⟩] })).map
      (fun t => (t.ctl.contrast, t.ctl.dispOn, t.ctl.parser)) = some (.known 0xAE#8, .unknown, .idle) := by decide +kernel
/-- A first byte whose row takes operands waits for them. -/
theorem test_command_waits_for_operands :
    (nextOf (step { onBlank ready with inbox := [⟨.command, 0x21#8, .ok⟩] })).map (fun t => (t.ctl.parser, t.inbox)) =
      some (.need 0x21#8 2 [], []) := by decide +kernel
/-- A controller that shows its display memory, with one bit of it set. -/
def showing : Controller :=
  { ready with
    dispOn := .known .on, entire := .known .ram, invert := .known .normal
    ram := (List.replicate 1024 (.known 0#8)).set 133 (.known 0x20#8) }

theorem test_visible : showing.visible 5 13 = .known true ∧ showing.visible 5 12 = .known false := by decide +kernel

/-! ### The step and the host's steps -/

/-- STATUS after an illegal word (95_test_vectors.md 2.1). -/
theorem test_illegal : (nextOf (step { blank with port := [0x00010000000000000000000000000006#128] })).map (fun t => (t.status, t.port, t.fb == blank.fb)) =
    some (0x00000603#32, [], true) := by decide +kernel
/-- A word presented while BUSY waits (10_state.md R22). -/
theorem test_busy_port : (nextOf (step { busy .init 0 [.ok] with port := [0x06#128] })).map (fun t => (t.port, t.seq, t.trace)) =
    some ([0x06#128], .busy .init 1, [⟨.command, 0xAE#8, .ok⟩]) := by decide +kernel
/-- The placed instruction is the next to run. -/
theorem test_withFetchWord : (nextOf (step (blank.withFetchWord 128 0x0d00050101))).map (fun t => (nonzero t.fb, t.status)) =
    some ([(133, 0x20)], 0x00000100#32) := by decide +kernel
theorem test_withFetchWord_command : (nextOf (step (State.reset.withFetchWord 16 0x1081))).map (fun t => (t.ctl.contrast, t.ctl.lost)) =
    some (.known 0x10#8, false) := by decide +kernel
theorem test_wire : BusByte.wire (.cmd 0xAE#8) = (0x3C#8, 0x00#8, 0xAE#8) ∧ BusByte.wire (.dat 0x5F#8) = (0x3C#8, 0x40#8, 0x5F#8) := by
  decide

/-! ### Witnesses: a concrete state and operands that meet the hypotheses of each statement, clause by clause -/

theorem ready_inv : ready.Inv where
  ramSize := List.length_replicate
  lostKnowsNothing h := absurd h (by decide +kernel)
  columnOk := rfl
  pageOk := rfl
  parser _ := rfl

/-- A request in progress in UNINIT meets the invariant. -/
theorem uninit_inv {k : Nat} {ans : List Answer} {tr : List Txn} (h : k < 22) :
    ({ blank with seq := .busy .init k, answers := ans, trace := tr } : State).Inv where
  fbSize := List.length_replicate
  glyphSize := by show font.length = 96; simp [font]
  memWf := rfl
  position _ _ e := by cases e; exact h
  active _ _ e hne := by cases e; exact absurd rfl hne
  code := Nat.zero_le _
  info h := absurd (show Status.info 0#32 = 0#16 by decide) h
  activeShadows h := by cases h
  uninitShadows _ := ⟨rfl, rfl, rfl⟩
  controller := Controller.powerUp_inv

/-- A request in progress, or none, in ACTIVE meets the invariant. -/
theorem inv_of_seq {q : Seq} {ans : List Answer} {p : List RequestWord} {x : List Txn} {c : Controller} (hc : c.Inv)
    (h : ∀ op k, q = .busy op k → k < (requestTxns op { active ans with seq := q, port := p, inbox := x, ctl := c }).length) :
    ({ active ans with seq := q, port := p, inbox := x, ctl := c } : State).Inv where
  fbSize := List.length_replicate
  glyphSize := by show font.length = 96; simp [font]
  memWf := rfl
  position := h
  active _ _ _ _ := rfl
  code := Nat.zero_le _
  info h := absurd (show Status.info 0#32 = 0#16 by decide) h
  activeShadows _ := ⟨rfl, rfl⟩
  uninitShadows h := by cases h
  controller := hc

theorem busy_inv {op : DeviceOp} {k : Nat} {ans : List Answer} (h : k < (requestTxns op (busy op k ans)).length) :
    (busy op k ans).Inv :=
  inv_of_seq (q := .busy op k) (p := []) (x := []) ready_inv fun _ _ e => by cases e; exact h

theorem active_inv (ans : List Answer) (p : List RequestWord) : ({ active ans with port := p } : State).Inv :=
  inv_of_seq (q := .idle) (p := p) (x := []) ready_inv fun _ _ e => by cases e

theorem display_length (k : Nat) (ans : List Answer) : (requestTxns .display (busy .display k ans)).length = 1030 := by
  rw [length_requestTxns_display]
  show (List.replicate 1024 0#8).length + 6 = 1030
  rw [List.length_replicate]

theorem witness_ResetStateIsAsListed : decode (.request 0x06#128) = .instr .fillFb ∧ (0 : Nat) < 1024 ∧ 1023 < 1024 := by decide +kernel

theorem witness_HostStepsTouchOnlyTheirOwn :
    Memory.wf blank.mem = true ∧ blank.seq = .idle ∧ blank.glyph.length = 96 ∧
    (32 ≤ (32#8).toNat ∧ (32#8).toNat ≤ 127) ∧ (32 ≤ (127#8).toNat ∧ (127#8).toNat ≤ 127) ∧
    (busy .display 1029 []).seq = .busy .display 1029 := by decide +kernel

theorem witness_DecodeOfEncodeIsTheInstruction :
    WellFormed (.setPixel (-32768) 32767 0xFF#8) ∧ WellFormed (.drawString (-1) 0 0xFFFFFFFF#32 65535) ∧
    WellFormed (.setPageAddress 0xFF#8 0x00#8) := by decide

theorem witness_DecodedRequestsAreInRange : decode (.request 0x00000000000000007fff000080000002#128) =
    .instr (.drawLine (-32768) 0 32767 0) := by decide +kernel

theorem witness_OperandsComeFromTheListedFields :
    ∀ op ∈ [0x01, 0x02, 0x03, 0x04, 0x05, 0x06, 0x07, 0x10, 0x11, 0x12, 0x13, 0x14],
      fieldOf (BitVec.ofNat 128 op) 112 16 = 0 ∧ fieldOf (BitVec.ofNat 128 op) 0 8 = op := by decide +kernel

theorem witness_StepRunsTheAcceptedRequest :
    let s : State := { blank with port := [0x06#128, 0x07#128] }
    s.inbox = [] ∧ s.seq = .idle ∧ s.port = 0x06#128 :: [0x07#128] ∧ decode (.request 0x06#128) = .instr .fillFb := by
  decide +kernel

/-- A bit of RSV, and the bounds of the unassigned opcodes. -/
theorem witness_StepReportsIllegalRequests :
    let s : State := { blank with port := [0x80000000000000000000000000000006#128] }
    s.inbox = [] ∧ s.seq = .idle ∧ s.port = 0x80000000000000000000000000000006#128 :: [] ∧
    fieldOf 0x80000000000000000000000000000006#128 112 16 ≠ 0 ∧ fieldOf 0x00#128 0 8 = 0 ∧
    (0x08 ≤ fieldOf 0x08#128 0 8 ∧ fieldOf 0x08#128 0 8 ≤ 0x0F) ∧ (0x08 ≤ fieldOf 0x0F#128 0 8 ∧ fieldOf 0x0F#128 0 8 ≤ 0x0F) ∧
    0x15 ≤ fieldOf 0x15#128 0 8 ∧ 0x15 ≤ fieldOf 0xFF#128 0 8 := by decide +kernel

theorem witness_StepRunsTheRequestInProgress : ∀ op ∈ [DeviceOp.init, .display, .setBrightness, .fillDisplay, .clearDisplay],
    (busy op 0 []).inbox = [] ∧ (busy op 0 []).seq = .busy op 0 := by decide +kernel

/-- One state for each clause: LOST, a data byte, and the parser's five cases. -/
theorem witness_StepReceivesTheOldestTransaction :
    (onBlank Controller.gone).ctl.lost = true ∧ (onBlank ready).ctl.lost = false ∧
    ready.parser = .idle ∧ operandCount 0xAE#8 = some 0 ∧ decode (.command [0xAE#8]) = .instr .displayOff ∧
    operandCount 0x22#8 = some (1 + 1) ∧ operandCount 0x81#8 = some (0 + 1) ∧
    ({ ready with parser := .need 0x21#8 2 [] } : Controller).parser = .need 0x21#8 2 [] ∧
    ([] ++ [0x05#8]).length ≠ 2 ∧ ([0x05#8] ++ [0x7F#8]).length = 2 ∧
    decode (.command (0x21#8 :: ([0x05#8] ++ [0x7F#8]))) = .instr (.setColumnAddress 0x05#8 0x7F#8) := by decide +kernel

/-- A first byte outside the table: of two candidates that are no fixed first byte and of the two open ones, at least one is outside. -/
theorem witness_byte_outside_the_table : ∃ b, operandCount b = none := by
  have h : ∀ f c : Byte, ∃ b, b ≠ f ∧ b ≠ c ∧ fixedShape b = none := by
    intro f c
    by_cases h1 : 0x00#8 ≠ f ∧ 0x00#8 ≠ c
    · exact ⟨0x00#8, h1.1, h1.2, rfl⟩
    · by_cases h2 : 0x01#8 ≠ f ∧ 0x01#8 ≠ c
      · exact ⟨0x01#8, h2.1, h2.2, rfl⟩
      · refine ⟨0x02#8, ?_, ?_, rfl⟩ <;> (rintro rfl; revert h1 h2; simp)
        all_goals (intro h1 h2; rw [← h1] at h2; cases h2)
  obtain ⟨b, h1, h2, h3⟩ := h pFillDisplayCmd pClearDisplayCmd
  exact ⟨b, by simp [operandCount, commandShape, h3, h1, h2]⟩

/-- A byte outside the table, and a first byte of each operand count. -/
theorem witness_CommandTableIsTheListedOne : (∃ b, operandCount b = none) ∧ operandCount 0xAF#8 = some ([] : List Byte).length ∧
    operandCount 0xDB#8 = some [0xFF#8].length ∧ operandCount 0x22#8 = some [0x00#8, 0x07#8].length :=
  ⟨witness_byte_outside_the_table, by decide +kernel⟩

theorem witness_FailedTransactionLosesTheController :
    ({ blank with inbox := [⟨.data, 0x00#8, .fail⟩] } : State).inbox = ⟨.data, 0x00#8, .fail⟩ :: [] ∧
    ({ blank with inbox := [⟨.command, 0xAE#8, .fail⟩] } : State).inbox = ⟨.command, 0xAE#8, .fail⟩ :: [] := by decide +kernel

theorem witness_IdleMachineHoldsItsState : blank.inbox = [] ∧ blank.seq = .idle ∧ blank.port = [] := ⟨rfl, rfl, rfl⟩

theorem witness_BusyMachineHoldsPortLatchAndFrame :
    (busy .display 1029 [.ok]).seq = .busy .display 1029 ∧ (nextOf (step (busy .display 1029 [.ok]))).isSome = true := by
  decide +kernel

theorem witness_RasterRequestsWriteOnlyFrameAndStatus :
    Instr.isRaster (.setPixel 0 0 0#8) = true ∧ Instr.isRaster (.drawLine 0 0 0 0) = true ∧ Instr.isRaster (.drawChar 0 0 0#8) = true ∧
    Instr.isRaster (.drawString 0 0 0#32 0) = true ∧ Instr.isRaster (.drawBitmap 0 0 0#32 0 0) = true ∧
    Instr.isRaster .fillFb = true ∧ Instr.isRaster .clearFb = true := by decide

/-- A rasterizer request presented in UNINIT. -/
theorem witness_RasterRequestsWriteOnlyFrameAndStatus_presented :
    let s : State := { blank with port := [0x06#128] }
    s.inbox = [] ∧ s.seq = .idle ∧ s.port = 0x06#128 :: [] ∧ decode (.request 0x06#128) = .instr .fillFb := by decide +kernel

/-- Both corners of the panel, and one step outside it on each side. -/
theorem witness_SetPixelWritesOneBit :
    blank.fb.length = 1024 ∧ ((0 : Int) ≤ 0 ∧ (0 : Int) < 128 ∧ (0 : Int) ≤ 0 ∧ (0 : Int) < 64) ∧
    ((0 : Int) ≤ 127 ∧ (127 : Int) < 128 ∧ (0 : Int) ≤ 63 ∧ (63 : Int) < 64) ∧
    (-1 : Int) < 0 ∧ (128 : Int) ≤ 128 ∧ (64 : Int) ≤ 64 := by decide +kernel

theorem witness_SetPixelHasNoCrossTalk :
    blank.fb.length = 1024 ∧ InPanel 0 0 ∧ InPanel 127 63 ∧ 0x80#8 ≠ 0#8 ∧ ((0 : Int), (0 : Int)) ≠ (127, 63) ∧
    ¬ InPanel 128 63 ∧ ¬ InPanel 127 64 ∧ ¬ InPanel (-1) 0 ∧ ¬ InPanel 0 (-1) := by decide +kernel

theorem pixelOf_replicate (v : Byte) {x y : Int} (h : InPanel x y) :
    Fb.pixelOf (List.replicate 1024 v) x y = v.getLsbD (pixelBit y) := by
  rw [Fb.pixelOf]
  exact congrArg (fun b : Byte => b.getLsbD (pixelBit y)) (Fb.byteAt_all v (pixelIndex_lt h))

theorem witness_FillAndClearSettleEveryPixel :
    (List.replicate 1024 0xFF#8).length = 1024 ∧ (∀ x y, InPanel x y → Fb.pixelOf (List.replicate 1024 0xFF#8) x y = true) ∧
    (List.replicate 1024 0x00#8).length = 1024 ∧ (∀ x y, InPanel x y → Fb.pixelOf (List.replicate 1024 0x00#8) x y = false) := by
  refine ⟨List.length_replicate, fun x y h => ?_, List.length_replicate, fun x y h => ?_⟩
  · rw [pixelOf_replicate _ h]
    have hb := pixelBit_lt y
    generalize pixelBit y = b at hb
    revert b; decide
  · rw [pixelOf_replicate _ h, BitVec.getLsbD_zero]

theorem witness_DrawLineLightsItsPositions : blank.fb.length = 1024 ∧ InPanel 127 63 := by decide +kernel

theorem witness_LineWalkIsAMinimalPath : IsPath (0, 0) (0, 0) [(0, 0)] ∧ IsPath (0, 0) (2, 1) [(0, 0), (1, 0), (2, 1)] := by
  refine ⟨⟨rfl, rfl, List.isChain_singleton _⟩, rfl, rfl, ?_⟩
  simp [Adjacent]

theorem witness_DrawLineIsSymmetric : blank.fb = List.replicate 1024 0#8 := by decide +kernel

theorem witness_LineArithmeticStaysInBounds :
    65535 ≤ max ((32767 : Int) - (-32768)).natAbs ((32767 : Int) - (-32768)).natAbs ∧ coordOk (-32768) = true ∧ coordOk 32767 = true := by
  decide

theorem witness_DrawCharLightsItsGlyph : blank.fb.length = 1024 ∧ blank.glyph.length = 96 ∧ InPanel 0 63 := by decide +kernel

theorem witness_DrawStringLightsItsGlyphs : (withBytes [(0x1000, 0x41#8)]).fb.length = 1024 ∧
    (withBytes [(0x1000, 0x41#8)]).glyph.length = 96 ∧ InPanel 127 0 := by decide +kernel

theorem witness_DrawBitmapLightsItsBits : (withBytes [(0x2000, 0x80#8)]).fb.length = 1024 ∧ InPanel 0 0 := by decide +kernel

/-- A block of equal bytes in listed cells. -/
def blockOf (v : Byte) : Nat → Nat → List Host.Cell
  | 0, _ => []
  | n + 1, a => (a, v) :: blockOf v n (a + 1)

theorem lookup_blockOf (v : Byte) (n a j : Nat) (h : j < n) : Memory.lookup (blockOf v n a) (a + j) = v := by
  induction n generalizing a j with
  | zero => omega
  | succ n ih =>
    simp only [blockOf, Memory.lookup]
    split
    · rfl
    · cases j with
      | zero => next hne => exact absurd rfl hne
      | succ j => rw [show a + (j + 1) = a + 1 + j by omega]; exact ih (a + 1) j (by omega)

theorem read_blockOf (v : Byte) (n j : Nat) (h : j < n) (hn : n ≤ 4096) :
    Memory.read (blockOf v n 0x2000) (BitVec.ofNat 32 ((0x2000#32).toNat + j)) = v := by
  have hx : (BitVec.ofNat 32 ((0x2000#32).toNat + j)).toNat = 0x2000 + j := by
    simp only [BitVec.toNat_ofNat]; omega
  rw [Memory.read, hx]
  exact lookup_blockOf v n 0x2000 j h

/-- The cells of 1024 bytes 0xFF at 0x2000. -/
theorem witness_FullBitmapEqualsFill : ∃ cells, cells = blockOf 0xFF#8 1024 0x2000 ∧ (withBytes cells).fb.length = 1024 ∧
    ∀ j : Nat, j < 1024 → Memory.read (withBytes cells).mem (BitVec.ofNat 32 ((0x2000#32).toNat + j)) = 0xFF#8 := by
  obtain ⟨cells, hc⟩ : ∃ cells, cells = blockOf 0xFF#8 1024 0x2000 := ⟨_, rfl⟩
  refine ⟨cells, hc, List.length_replicate, fun j hj => ?_⟩
  have h := read_blockOf 0xFF#8 1024 j hj (by decide)
  rw [← hc] at h
  exact h

theorem witness_MisuseIsReportedBeforeAnyTransaction : State.reset.seq = .idle ∧ State.reset.pstate = .uninit := ⟨rfl, rfl⟩

theorem witness_AcceptedDeviceRequestsStart : (active []).seq = .idle ∧ (active []).pstate = .active := ⟨rfl, rfl⟩

/-- The last transaction but one of INIT, DISPLAY and SETBRIGHTNESS. -/
theorem witness_AnsweredTransactionAdvancesTheRequest :
    ((busy .init 20 [.ok]).seq = .busy .init 20 ∧ (requestTxns .init (busy .init 20 [.ok]))[20]? = some (.cmd 0xA6#8) ∧
      20 + 1 < (requestTxns .init (busy .init 20 [.ok])).length ∧ (busy .init 20 [.ok]).nextAnswer = .ok) ∧
    ((busy .display 1028 [.ok]).seq = .busy .display 1028 ∧ (requestTxns .display (busy .display 1028 [.ok]))[1028]? = some (.dat 0x00#8) ∧
      1028 + 1 < (requestTxns .display (busy .display 1028 [.ok])).length ∧ (busy .display 1028 [.ok]).nextAnswer = .ok) ∧
    ((busy .setBrightness 0 [.ok]).seq = .busy .setBrightness 0 ∧
      (requestTxns .setBrightness (busy .setBrightness 0 [.ok]))[0]? = some (.cmd 0x81#8) ∧
      0 + 1 < (requestTxns .setBrightness (busy .setBrightness 0 [.ok])).length ∧ (busy .setBrightness 0 [.ok]).nextAnswer = .ok) := by
  decide +kernel

/-- The last transaction of each of the five operations, answered `fail`. -/
theorem witness_TransportFailureEndsTheRequest :
    ∀ p ∈ [(DeviceOp.init, 21), (.display, 1029), (.setBrightness, 1), (.fillDisplay, 0), (.clearDisplay, 0)],
      (busy p.1 p.2 [.fail]).Inv ∧ (busy p.1 p.2 [.fail]).seq = .busy p.1 p.2 ∧
      (∃ b, (requestTxns p.1 (busy p.1 p.2 [.fail]))[p.2]? = some b) ∧ (busy p.1 p.2 [.fail]).nextAnswer = .fail ∧
      (busy p.1 p.2 [.fail]).inbox = [] := by
  intro p hp
  have h : p.2 < (requestTxns p.1 (busy p.1 p.2 [.fail])).length := by
    simp only [List.mem_cons, List.not_mem_nil, or_false] at hp
    rcases hp with rfl | rfl | rfl | rfl | rfl
    · decide
    · rw [display_length]; decide
    all_goals decide
  exact ⟨busy_inv h, rfl, ⟨_, List.getElem?_eq_getElem h⟩, rfl, rfl⟩

theorem witness_SuccessfulInitActivates : (busy .init 21 [.ok]).seq = .busy .init 21 ∧ (busy .init 21 [.ok]).nextAnswer = .ok :=
  ⟨rfl, rfl⟩

theorem witness_SuccessfulDeviceRequestsComplete :
    ((busy .display 1029 [.ok]).fb.length = 1024 ∧ (busy .display 1029 [.ok]).seq = .busy .display 1029 ∧
      (busy .display 1029 [.ok]).nextAnswer = .ok) ∧
    ((busy .setBrightness 1 [.ok]).seq = .busy .setBrightness 1 ∧ (busy .setBrightness 1 [.ok]).nextAnswer = .ok) ∧
    ((busy .fillDisplay 0 [.ok]).seq = .busy .fillDisplay 0 ∧ (busy .fillDisplay 0 [.ok]).nextAnswer = .ok) ∧
    ((busy .clearDisplay 0 [.ok]).seq = .busy .clearDisplay 0 ∧ (busy .clearDisplay 0 [.ok]).nextAnswer = .ok) := by
  decide +kernel

/-- SETBRIGHTNESS with its second transaction to fail, and FILLDISPLAY with its one to succeed. -/
theorem witness_RequestStepsRefineSend :
    ((busy .setBrightness 0 [.ok, .fail]).Inv ∧ (busy .setBrightness 0 [.ok, .fail]).seq = .busy .setBrightness 0 ∧
      (busy .setBrightness 0 [.ok, .fail]).inbox = [] ∧ (busy .setBrightness 0 [.ok, .fail]).answers = [.ok, .fail] ++ [] ∧
      [Answer.ok, .fail].length = (requestTxns .setBrightness (busy .setBrightness 0 [.ok, .fail])).length) ∧
    ((busy .fillDisplay 0 [.ok]).Inv ∧ (busy .fillDisplay 0 [.ok]).seq = .busy .fillDisplay 0 ∧
      (busy .fillDisplay 0 [.ok]).inbox = [] ∧ (busy .fillDisplay 0 [.ok]).answers = [.ok] ++ [] ∧
      [Answer.ok].length = (requestTxns .fillDisplay (busy .fillDisplay 0 [.ok])).length) :=
  ⟨⟨busy_inv (by decide), rfl, rfl, rfl, rfl⟩, busy_inv (by decide), rfl, rfl, rfl, rfl⟩

/-- Right after the first reset, its controller at power-up. -/
theorem witness_InitConfiguresTheController :
    let s : State := { State.reset with port := [0x10#128], answers := List.replicate 22 .ok }
    s.seq = .idle ∧ s.inbox = [] ∧ s.port = 0x10#128 :: [] ∧ decode (.request 0x10#128) = .instr .init ∧
    s.answers = List.replicate 22 .ok ++ [] ∧ s.ctl.lost = false ∧ s.ctl.parser = .idle := by decide +kernel

theorem witness_DisplayFillsTheControllersMemory :
    let s : State := { active (List.replicate 1030 .ok) with port := [0x11#128] }
    s.Inv ∧ s.seq = .idle ∧ s.inbox = [] ∧ s.port = 0x11#128 :: [] ∧ decode (.request 0x11#128) = .instr .display ∧
    s.pstate = .active ∧ s.answers = List.replicate 1030 .ok ++ [] ∧ s.ctl.lost = false ∧ s.ctl.parser = .idle ∧
    s.ctl.mode = .known .horizontal :=
  ⟨active_inv _ _, rfl, rfl, rfl, by decide +kernel, rfl, (List.append_nil _).symm, rfl, rfl, rfl⟩

theorem witness_BrightnessEmitsTwoCommandBytes :
    let s : State := { active [.ok, .ok] with port := [0x7f12#128] }
    s.seq = .idle ∧ s.inbox = [] ∧ s.port = 0x7f12#128 :: [] ∧ decode (.request 0x7f12#128) = .instr (.setBrightness 0x7F#8) ∧
    s.pstate = .active ∧ s.answers = .ok :: .ok :: [] ∧ s.ctl.lost = false ∧ s.ctl.parser = .idle := by decide +kernel

theorem witness_BypassRequestsForceThePanel :
    let s : State := { active [.ok] with port := [0x13#128] }
    s.seq = .idle ∧ s.inbox = [] ∧ s.port = 0x13#128 :: [] ∧ s.pstate = .active ∧ s.answers = .ok :: [] ∧
    s.ctl.lost = false ∧ s.ctl.parser = .idle ∧ decode (.request 0x13#128) = .instr .fillDisplay ∧
    decode (.request 0x14#128) = .instr .clearDisplay := by decide +kernel

/-- INIT in ACTIVE that fails at its first transaction, and INIT in UNINIT that completes. -/
theorem witness_OnlyInitChangesTheProtocolState :
    ((busy .init 0 [.fail]).Inv ∧ ∃ t, step (busy .init 0 [.fail]) = .next t ∧ t.pstate ≠ (busy .init 0 [.fail]).pstate) ∧
    (let s : State := { blank with seq := .busy .init 21, answers := [.ok], trace := [] }
     s.Inv ∧ ∃ t, step s = .next t ∧ t.pstate ≠ s.pstate) := by
  refine ⟨⟨busy_inv (by decide), _, step_busy rfl rfl, ?_⟩, ⟨uninit_inv (by decide), _, step_busy rfl rfl, ?_⟩⟩
  · rw [State.sendStep_fail (t := .cmd 0xAE#8) rfl rfl]; exact fun h => by cases h
  · rw [State.sendStep_last (t := .cmd 0xAF#8) rfl rfl (by decide)]; exact fun h => by cases h

/-- The last transaction of DISPLAY, a data byte. -/
theorem witness_TraceGrowsByTheRequestsTransactions :
    (busy .display 1029 [.ok]).Inv ∧ ∃ t, step (busy .display 1029 [.ok]) = .next t ∧ t.trace ≠ (busy .display 1029 [.ok]).trace ∧
      t.trace.map Txn.reg = [.data] := by
  refine ⟨busy_inv (by rw [display_length]; decide), _, step_busy rfl rfl, ?_⟩
  have hb : (requestTxns .display (busy .display 1029 [.ok]))[1029]? = some (.dat 0x00#8) := by decide +kernel
  rw [State.sendStep_last hb rfl (by rw [display_length])]
  exact ⟨fun h => (by cases h), rfl⟩

theorem witness_ShadowsChangeOnlyByTheirRequests :
    (∃ t, step (busy .init 0 [.fail]) = .next t ∧ t.contrast ≠ (busy .init 0 [.fail]).contrast ∧
      t.addrMode ≠ (busy .init 0 [.fail]).addrMode ∧ t.power ≠ (busy .init 0 [.fail]).power) ∧
    (∃ t, step (busy .clearDisplay 0 [.ok]) = .next t ∧ t.dispSrc ≠ (busy .clearDisplay 0 [.ok]).dispSrc) := by
  refine ⟨⟨_, step_busy rfl rfl, ?_⟩, _, step_busy rfl rfl, ?_⟩
  · rw [State.sendStep_fail (t := .cmd 0xAE#8) rfl rfl]; exact ⟨fun h => (by cases h), fun h => (by cases h), fun h => (by cases h)⟩
  · rw [State.sendStep_last (t := .cmd pClearDisplayCmd) rfl rfl (by decide)]; exact fun h => by cases h

theorem witness_RecordingCommandsRecord : (onBlank ready).ctl.lost = false := rfl

theorem witness_DisplayModeCommandsAct :
    (onBlank ready).ctl.lost = false ∧ (onBlank ready).ctl.entire ≠ .known .forcedOff ∧
    (onBlank { ready with entire := .known .forcedOff }).ctl.lost = false ∧
    (onBlank { ready with entire := .known .forcedOff }).ctl.entire = .known .forcedOff ∧ (0x01#8 : Byte) ≠ 0x00#8 := by decide +kernel

/-- The greatest legal windows, and the least illegal ones. -/
theorem witness_WindowAndBypassCommandsAct :
    (onBlank ready).ctl.lost = false ∧ ((127#8).toNat ≤ (127#8).toNat ∧ (127#8).toNat ≤ 127) ∧ (0#8).toNat < (1#8).toNat ∧
    127 < (128#8).toNat ∧ ((7#8).toNat ≤ (7#8).toNat ∧ (7#8).toNat ≤ 7) ∧ 7 < (8#8).toNat := by decide +kernel

/-- A pointer at the end of its window, and a controller for each way the byte is not settled. -/
theorem witness_DataByteStoresAndAdvances :
    ((windowed 127 7).lost = false ∧ (windowed 127 7).parser = .idle ∧ (windowed 127 7).mode = .known .horizontal ∧
      (windowed 127 7).col = .known 127 ∧ (windowed 127 7).page = .known 7 ∧ (windowed 127 7).cs = .known 126 ∧
      (windowed 127 7).ce = .known 127 ∧ (windowed 127 7).ps = .known 6 ∧ (windowed 127 7).pe = .known 7) ∧
    ({ windowed 127 7 with parser := .need 0x81#8 1 [] } : Controller).parser ≠ .idle ∧ Controller.powerUp.mode = .unknown ∧
    ready.lost = false ∧ ready.col = .unknown ∧ ready.page = .unknown ∧ ready.cs = .unknown ∧ ready.ce = .unknown ∧
    ready.ps = .unknown ∧ ready.pe = .unknown := by decide +kernel

theorem witness_LostStaysLost :
    (∃ t, ({ active [] with seq := .idle, port := [], inbox := [⟨.data, 0x00#8, .fail⟩], ctl := Controller.gone } : State).Inv ∧
      Controller.gone.lost = true ∧
      step { active [] with seq := .idle, port := [], inbox := [⟨.data, 0x00#8, .fail⟩], ctl := Controller.gone } = .next t) ∧
    Instr.isRequest (.dataByte 0x00#8) = false ∧ Instr.isRequest .displayOn = false :=
  ⟨⟨_, inv_of_seq Controller.gone_inv (fun _ _ h => by cases h), rfl, step_receive rfl⟩, rfl, rfl⟩

/-- A panel corner, and a controller for each case of the view. -/
theorem witness_PanelShowsTheFrameBuffer :
    InPanel 127 63 ∧
    (∃ fb : List Byte, fb.length = 1024 ∧ showing.ram = fb.map .known ∧ showing.lost = false ∧ showing.dispOn = .known .on ∧
      showing.entire = .known .ram ∧ showing.invert = .known .normal) ∧
    Controller.gone.lost = true ∧ ready.dispOn = .unknown ∧ ready.entire = .unknown ∧
    ({ showing with dispOn := .known .off } : Controller).dispOn = .known .off ∧
    ({ showing with entire := .known .forcedOn } : Controller).entire = .known .forcedOn ∧
    ({ showing with entire := .known .forcedOff } : Controller).entire = .known .forcedOff ∧
    ({ showing with invert := .unknown } : Controller).invert = .unknown :=
  ⟨by decide, ⟨(List.replicate 1024 0#8).set 133 0x20#8, by rw [List.length_set, List.length_replicate],
    by rw [List.map_set, List.map_replicate]; rfl, rfl, rfl, rfl, rfl⟩, rfl, rfl, rfl, rfl, rfl, rfl, rfl⟩

/-- A known and an unknown byte of the display memory. -/
theorem witness_PanelShowsTheFrameBuffer_memory :
    showing.ram[(13 : Int).toNat / 8 * 128 + (5 : Int).toNat]? = some (.known 0x20#8) ∧
    ({ showing with ram := Controller.powerUp.ram } : Controller).ram[(63 : Int).toNat / 8 * 128 + (127 : Int).toNat]? = some .unknown := by
  decide +kernel

/-- In the middle of DISPLAY, its next write to fail. -/
theorem witness_StepKeepsTheInvariant : (busy .display 7 [.fail]).Inv ∧ ∃ t, step (busy .display 7 [.fail]) = .next t :=
  ⟨busy_inv (by rw [display_length]; decide), _, step_busy rfl rfl⟩

theorem witness_HostStepsKeepTheInvariant : ({ active [] with port := [0x06#128] } : State).Inv := active_inv _ _

/-- One transaction received, one waiting. -/
theorem witness_ControllerIsAFunctionOfTheTrace :
    let s : State := { State.reset with trace := [⟨.command, 0xA1#8, .ok⟩, ⟨.command, 0xA6#8, .ok⟩], inbox := [⟨.command, 0xA6#8, .ok⟩],
                                        ctl := controllerOf [⟨.command, 0xA1#8, .ok⟩] }
    s.Tracks ∧ ∃ t, step s = .next t :=
  ⟨⟨[⟨.command, 0xA1#8, .ok⟩], rfl, rfl⟩, _, step_receive rfl⟩

/-- After one transaction of INIT. -/
theorem witness_SoundTransportKeepsTheControllerListening :
    let s : State := { blank with seq := .busy .init 1, answers := [.ok], trace := [⟨.command, 0xAE#8, .ok⟩] }
    s.Inv ∧ s.BusInv ∧ ∃ t, step s = .next t := by
  refine ⟨uninit_inv (by decide), fun _ => ⟨Controller.powerUp, ⟨rfl, rfl, fun h => by cases h⟩, rfl⟩, _, step_busy rfl rfl⟩

end Sys2Proof.Tests
end

section
/-! PROOFS. The statements about the step, the state's fields and their invariant (10_state.md R20 to R29). -/
namespace Sys2Proof.Machine

/-! ### The invariant, one lemma per part of a step -/

/-- A device request has at most the 1030 transactions of DISPLAY (43_device_protocol.md R183). -/
theorem length_requestTxns_le {s : State} (h : s.fb.length = 1024) (op : DeviceOp) : (requestTxns op s).length ≤ 1030 := by
  cases op <;> simp [h]

/-- What the port and a rasterizer request write while SEQ is IDLE. -/
theorem State.Inv.withFbPortReq {s : State} (h : s.Inv) (hs : s.seq = .idle) {fb : List Byte} (hl : fb.length = 1024)
    (port : List RequestWord) (req : RequestWord) : ({ s with fb := fb, port := port, req := req } : State).Inv :=
  { h with
    fbSize := hl
    position := fun _ _ hb => nomatch hs.symm.trans hb
    active := fun _ _ hb => nomatch hs.symm.trans hb }

/-- The port takes a word while SEQ is IDLE. -/
theorem State.Inv.withPortReq {s : State} (h : s.Inv) (hs : s.seq = .idle) (port : List RequestWord) (req : RequestWord) :
    ({ s with port := port, req := req } : State).Inv :=
  h.withFbPortReq hs h.fbSize port req

/-- SEQ at a transaction of a request that may run. -/
theorem State.Inv.withBusy {s : State} (h : s.Inv) {op : DeviceOp} {k : Nat} (hk : k < (requestTxns op s).length)
    (ha : op ≠ .init → s.pstate = .active) : ({ s with seq := .busy op k } : State).Inv :=
  { h with
    position := by rintro _ _ ⟨⟩; exact (requestTxns_congr (s := s) op rfl rfl).symm ▸ hk
    active := by rintro _ _ ⟨⟩; exact ha }

/-- A bus write touches nothing the invariant speaks of. -/
theorem State.Inv.busWrite {s : State} (h : s.Inv) (b : BusByte) : (s.busWrite b).Inv :=
  { h with position := fun op k hb => (requestTxns_congr (s := s) op rfl rfl).symm ▸ h.position op k hb }

/-- The controller's reception of a transaction. -/
theorem State.Inv.receive {s : State} (h : s.Inv) (x : Txn) (rest : List Txn) :
    ({ s with inbox := rest, ctl := s.ctl.after x } : State).Inv :=
  { h with
    position := fun op k hb => (requestTxns_congr (s := s) op rfl rfl).symm ▸ h.position op k hb
    controller := Controller.after_inv h.controller x }

/-- A completion with a code of 60_exceptions.md R240, INFO zero but for a transport failure. -/
theorem State.Inv.complete {s : State} (h : s.Inv) {info : BitVec 16} {op code : Byte} (hc : code.toNat ≤ 3)
    (hi : info ≠ 0#16 → code = Status.TRANSPORT_FAILURE ∧ info.toNat ≤ 1029) : (s.complete info op code).Inv :=
  { h with
    position := fun _ _ hb => nomatch hb
    active := fun _ _ hb => nomatch hb
    code := by simpa using hc
    info := by simpa using hi }

/-- A completion with INFO zero. -/
theorem State.Inv.completeNoInfo {s : State} (h : s.Inv) {op code : Byte} (hc : code.toNat ≤ 3) :
    (s.complete 0#16 op code).Inv :=
  h.complete hc fun hne => absurd rfl hne

/-- The end of a request, all of whose writes were answered `ok`: INIT leaves ACTIVE with its shadows, and the others run
in ACTIVE, where DISP_SRC may be known. -/
theorem State.Inv.onOk {s : State} (h : s.Inv) {op : DeviceOp} {k : Nat} (hs : s.seq = .busy op k) (req : RequestWord) :
    (onOk op req s).Inv := by
  have hactive := h.active op k hs
  have huninit : op ≠ .init → ∀ {p : Prop}, s.pstate = .uninit → p := fun ho _ hu =>
    nomatch (hactive ho).symm.trans hu
  obtain ⟨fbSize, glyphSize, memWf, position, active, code, info, activeShadows, uninitShadows, controller⟩ := h
  cases op with
  | init =>
    exact ⟨fbSize, glyphSize, memWf, position, fun _ _ _ _ => rfl, code, info, fun _ => ⟨rfl, rfl⟩, nofun, controller⟩
  | display => exact ⟨fbSize, glyphSize, memWf, position, active, code, info, activeShadows, uninitShadows, controller⟩
  | setBrightness | fillDisplay | clearDisplay =>
    exact ⟨fbSize, glyphSize, memWf, position, active, code, info, activeShadows, fun hu => huninit (by simp) hu, controller⟩

/-- The failure of a request: INIT leaves UNINIT with nothing known, the others forget their own shadow. -/
theorem State.Inv.onFail {s : State} (h : s.Inv) {op : DeviceOp} {k : Nat} (hs : s.seq = .busy op k) : (onFail op s).Inv := by
  obtain ⟨fbSize, glyphSize, memWf, position, active, code, info, activeShadows, uninitShadows, controller⟩ := h
  cases op with
  | init =>
    have hop : ∀ op k, s.seq = .busy op k → op ≠ .init → PState.uninit = .active := by
      intro op _ hb hne
      rw [hs] at hb
      cases hb
      exact absurd rfl hne
    exact ⟨fbSize, glyphSize, memWf, position, hop, code, info, nofun, fun _ => ⟨rfl, rfl, rfl⟩, controller⟩
  | display | setBrightness =>
    exact ⟨fbSize, glyphSize, memWf, position, active, code, info, activeShadows, uninitShadows, controller⟩
  | fillDisplay | clearDisplay =>
    refine ⟨fbSize, glyphSize, memWf, position, active, code, info, activeShadows, fun hu => ?_, controller⟩
    obtain ⟨haddrMode, hpower, -⟩ := uninitShadows hu
    exact ⟨haddrMode, hpower, rfl⟩

/-- Settles O53, by the cases of a step: each is composed of operations that keep the invariant. -/
theorem stepKeepsTheInvariant : Obligations.StepKeepsTheInvariant := by
  intro s t hinv h
  cases step_cases h with
  | receive x rest hi ht => exact ht ▸ hinv.receive x rest
  | idle hi hs hp ht => exact ht ▸ hinv
  | raster w rest i fb hi hs hp hd hr hl ht =>
    exact ht ▸ (hinv.withFbPortReq hs (hl hinv.fbSize) rest w).completeNoInfo (by decide)
  | raised w r rest op code hi hs hp hc ht => exact ht ▸ (hinv.withPortReq hs rest r).completeNoInfo hc
  | started w rest op hi hs hp ha hd ht => exact ht ▸ (hinv.withPortReq hs rest w).withBusy (requestTxns_pos op _) ha
  | more op k b hi hs hb ha hk ht =>
    have hk' : k + 1 < (requestTxns op (s.busWrite b)).length := (requestTxns_congr (s := s) op rfl rfl).symm ▸ hk
    exact ht ▸ (hinv.busWrite b).withBusy hk' (hinv.active op k hs)
  | last op k b hi hs hb ha hk ht => exact ht ▸ ((hinv.busWrite b).onOk hs s.req).completeNoInfo (by decide)
  | failed op k b hi hs hb ha ht =>
    have hk : k ≤ 1029 := by
      have := hinv.position op k hs
      have := length_requestTxns_le hinv.fbSize op
      omega
    have hinfo : (BitVec.ofNat 16 k).toNat ≤ 1029 := by
      rw [BitVec.toNat_ofNat]; omega
    exact ht ▸ ((hinv.busWrite b).onFail hs).complete (by decide) fun _ => ⟨rfl, hinfo⟩
  | past op k hi hs hb ht => exact ht ▸ (hinv.onOk hs s.req).completeNoInfo (by decide)

/-! ### What a step leaves unchanged -/

/-- Settles O19, by the cases of a step from BUSY: a reception, or a bus write and what its request ends with. -/
theorem busyMachineHoldsPortLatchAndFrame : Obligations.BusyMachineHoldsPortLatchAndFrame := by
  intro s t op k hbusy h
  cases step_cases h with
  | idle | raster | raised | started => exact nomatch hbusy.symm.trans ‹s.seq = .idle›
  | receive | more => subst t; exact ⟨rfl, rfl, rfl, rfl, rfl⟩
  | last op k b =>
    obtain ⟨_, _, _, _, _, he⟩ := onOk_frame op s.req (s.busWrite b)
    subst t; rw [he]; exact ⟨rfl, rfl, rfl, rfl, rfl⟩
  | failed op k b =>
    obtain ⟨_, _, _, _, _, he⟩ := onFail_frame op (s.busWrite b)
    subst t; rw [he]; exact ⟨rfl, rfl, rfl, rfl, rfl⟩
  | past op k =>
    obtain ⟨_, _, _, _, _, he⟩ := onOk_frame op s.req s
    subst t; rw [he]; exact ⟨rfl, rfl, rfl, rfl, rfl⟩

/-- Of the requests' ends, only INIT's changes PSTATE. -/
theorem eq_init_of_onOk_pstate_ne {op : DeviceOp} {req : RequestWord} {s : State}
    (h : (onOk op req s).pstate ≠ s.pstate) : op = .init := by
  cases op <;> simp [onOk] at h ⊢

/-- Of the requests' failures, only INIT's changes PSTATE. -/
theorem eq_init_of_onFail_pstate_ne {op : DeviceOp} {s : State} (h : (onFail op s).pstate ≠ s.pstate) : op = .init := by
  cases op <;> simp [onFail] at h ⊢

/-- Settles O44: of the cases of a step, only the end of a request touches PSTATE, and only INIT's does. -/
theorem onlyInitChangesTheProtocolState : Obligations.OnlyInitChangesTheProtocolState := by
  intro s t hinv h hne
  cases step_cases h with
  | receive | idle | raster | raised | started | more => subst t; exact absurd rfl hne
  | last op k b hi hs hb ha hk ht =>
    subst t
    obtain rfl : op = .init := eq_init_of_onOk_pstate_ne (s := s.busWrite b) hne
    have hlast : k = 21 := by rw [length_requestTxns_init] at hk; omega
    exact ⟨hi, rfl, k, hs, .inl ⟨hlast, ha, rfl⟩⟩
  | failed op k b hi hs hb ha ht =>
    subst t
    obtain rfl : op = .init := eq_init_of_onFail_pstate_ne (s := s.busWrite b) hne
    exact ⟨hi, rfl, k, hs, .inr ⟨ha, rfl⟩⟩
  | past op k hi hs hb ht => exact absurd (hinv.position op k hs) (Nat.not_lt.2 hb)

/-! ### TRACE -/

/-- A step leaves TRACE, or appends the next transaction of the request in progress with its answer. -/
theorem step_trace {s t : State} (h : step s = .next t) :
    t.trace = s.trace ∨ ∃ op k b, s.seq = .busy op k ∧ (requestTxns op s)[k]? = some b ∧
      t.trace = s.trace ++ [b.answered s.nextAnswer] := by
  cases step_cases h with
  | receive | idle | raster | raised | started => subst t; exact .inl rfl
  | more op k b hi hs hb => subst t; exact .inr ⟨op, k, b, hs, hb, rfl⟩
  | last op k b hi hs hb =>
    obtain ⟨_, _, _, _, _, he⟩ := onOk_frame op s.req (s.busWrite b)
    subst t; rw [he]; exact .inr ⟨op, k, b, hs, hb, rfl⟩
  | failed op k b hi hs hb =>
    obtain ⟨_, _, _, _, _, he⟩ := onFail_frame op (s.busWrite b)
    subst t; rw [he]; exact .inr ⟨op, k, b, hs, hb, rfl⟩
  | past op k =>
    obtain ⟨_, _, _, _, _, he⟩ := onOk_frame op s.req s
    subst t; rw [he]; exact .inl rfl

/-- Bytes sent as commands go to the command register. -/
theorem reg_of_mem_map_cmd {bytes : List Byte} {b : BusByte} (h : b ∈ bytes.map .cmd) : b.reg = .command := by
  obtain ⟨_, -, rfl⟩ := List.mem_map.1 h
  rfl

/-- DISPLAY's transactions are six command bytes and then FB, byte `k - 6` at position `k`. -/
theorem displayTxns_data {fb : List Byte} {k : Nat} {b : BusByte} (hb : (displayTxns fb)[k]? = some b) (hr : b.reg = .data) :
    6 ≤ k ∧ b.byte = Fb.byteAt fb (k - 6) := by
  have hw : windowTxns.length = 6 := rfl
  rw [displayTxns, List.getElem?_append, hw] at hb
  split at hb
  · have hc := reg_of_mem_map_cmd (List.mem_of_getElem? hb)
    exact nomatch hc.symm.trans hr
  · next hk =>
    rw [List.getElem?_map, Option.map_eq_some_iff] at hb
    obtain ⟨v, hv, rfl⟩ := hb
    refine ⟨by omega, ?_⟩
    rw [Fb.byteAt, List.getD_eq_getElem?_getD, hv]
    rfl

/-- Only DISPLAY sends data bytes (43_device_protocol.md R177). -/
theorem eq_display_of_data {op : DeviceOp} {s : State} {k : Nat} {b : BusByte} (hb : (requestTxns op s)[k]? = some b)
    (hr : b.reg = .data) : op = .display := by
  have hm := List.mem_of_getElem? hb
  have hcommand : ∀ bytes : List Byte, requestTxns op s = bytes.map .cmd → op = .display := fun bytes he =>
    nomatch (reg_of_mem_map_cmd (he ▸ hm)).symm.trans hr
  cases op with
  | display => rfl
  | init => exact hcommand initSeq rfl
  | setBrightness => exact hcommand [0x81#8, reqK s.req] rfl
  | fillDisplay => exact hcommand [pFillDisplayCmd] rfl
  | clearDisplay => exact hcommand [pClearDisplayCmd] rfl

/-- Settles O45, by `step_trace` and the shape of the requests' transactions. -/
theorem traceGrowsByTheRequestsTransactions : Obligations.TraceGrowsByTheRequestsTransactions := by
  intro s t hinv h hne
  obtain he | ⟨op, k, b, hs, hb, ht⟩ := step_trace h
  · exact absurd he hne
  · refine ⟨op, k, b, s.nextAnswer, hs, hb, ht, fun hr => ?_⟩
    obtain rfl := eq_display_of_data hb hr
    obtain ⟨hk, hbyte⟩ := displayTxns_data hb hr
    have hpos := hinv.position .display k hs
    rw [length_requestTxns_display, hinv.fbSize] at hpos
    exact ⟨rfl, hk, by omega, hbyte⟩

/-! ### The shadows -/

/-- From `s` to `t` a shadow changes only if `q` is BUSY with one of the requests that write it (10_state.md R27). -/
structure ShadowsChangeBy (q : Seq) (s t : State) : Prop where
  contrast : t.contrast ≠ s.contrast → ∃ k, q = .busy .init k ∨ q = .busy .setBrightness k
  initOnly : t.addrMode ≠ s.addrMode ∨ t.power ≠ s.power → ∃ k, q = .busy .init k
  dispSrc : t.dispSrc ≠ s.dispSrc → ∃ k, q = .busy .init k ∨ q = .busy .fillDisplay k ∨ q = .busy .clearDisplay k

/-- The end of a request writes its own shadows only. -/
theorem onOk_shadows (op : DeviceOp) (k : Nat) (req : RequestWord) (s : State) :
    ShadowsChangeBy (.busy op k) s (onOk op req s) := by
  cases op <;> constructor <;> simp [onOk]

/-- The failure of a request writes its own shadows only. -/
theorem onFail_shadows (op : DeviceOp) (k : Nat) (s : State) : ShadowsChangeBy (.busy op k) s (onFail op s) := by
  cases op <;> constructor <;> simp [onFail]

/-- A step writes the shadows of the request in progress only. -/
theorem step_shadows {s t : State} (h : step s = .next t) : ShadowsChangeBy s.seq s t := by
  cases step_cases h with
  | receive | idle | raster | raised | started | more => subst t; constructor <;> simp
  | last op k b hi hs =>
    obtain ⟨hcontrast, hinit, hdispSrc⟩ := onOk_shadows op k s.req (s.busWrite b)
    subst t; rw [hs]; exact ⟨hcontrast, hinit, hdispSrc⟩
  | failed op k b hi hs =>
    obtain ⟨hcontrast, hinit, hdispSrc⟩ := onFail_shadows op k (s.busWrite b)
    subst t; rw [hs]; exact ⟨hcontrast, hinit, hdispSrc⟩
  | past op k hi hs =>
    obtain ⟨hcontrast, hinit, hdispSrc⟩ := onOk_shadows op k s.req s
    subst t; rw [hs]; exact ⟨hcontrast, hinit, hdispSrc⟩

/-- Settles O46, by `step_shadows`. -/
theorem shadowsChangeOnlyByTheirRequests : Obligations.ShadowsChangeOnlyByTheirRequests := by
  intro s t h
  obtain ⟨hcontrast, hinit, hdispSrc⟩ := step_shadows h
  exact ⟨hcontrast, hinit, hdispSrc⟩

/-! ### The instruction a step runs -/

/-- Settles O12, by what the acceptance of a word does. -/
theorem stepRunsTheAcceptedRequest : Obligations.StepRunsTheAcceptedRequest := by
  intro s w rest i hi hs hp hd
  obtain ⟨j, hj, he⟩ | ⟨r, hr, -⟩ := step_accept hi hs hp
  · cases hd.symm.trans hj
    exact he
  · exact nomatch hd.symm.trans hr

/-- The step of a request in progress is its meaning, the operand from REQ. -/
theorem step_inProgress {s : State} {op : DeviceOp} {k : Nat} (hi : s.inbox = []) (hs : s.seq = .busy op k) :
    step s = exec (op.instr s.req) s :=
  step_of_run (fetch_busy hi hs)

/-- Settles O14, by `step_inProgress`: SETBRIGHTNESS's operand is bits 15 to 8 of REQ. -/
theorem stepRunsTheRequestInProgress : Obligations.StepRunsTheRequestInProgress := by
  intro s k hi
  have hlevel : reqK s.req = BitVec.ofNat 8 (fieldOf s.req 8 8) := slice_eq s.req 8 8
  refine ⟨step_inProgress hi, step_inProgress hi, fun hs => ?_, step_inProgress hi, step_inProgress hi⟩
  rw [← hlevel]
  exact step_inProgress hi hs

/-- An idle machine starts INIT, and in ACTIVE every device request. -/
theorem exec_device_starts {s : State} (hs : s.seq = .idle) {op : DeviceOp} (ha : op = .init ∨ s.pstate = .active)
    (req : RequestWord) : exec (op.instr req) s = .next { s with seq := .busy op 0 } := by
  rw [exec_device_idle hs, if_pos ha]
  rfl

/-- Settles O34, by `exec_device_starts`; a level is the operand of the word that packs it. -/
theorem acceptedDeviceRequestsStart : Obligations.AcceptedDeviceRequestsStart := by
  intro s hs
  refine ⟨exec_device_starts hs (op := .init) (.inl rfl) 0, fun ha => ?_⟩
  have hstarts := fun op req => exec_device_starts hs (op := op) (.inr ha) req
  refine ⟨hstarts .display 0, fun level => ?_, hstarts .fillDisplay 0, hstarts .clearDisplay 0⟩
  have hlevel := hstarts .setBrightness (packRequest 0x12#8 level 0 0 0 0 0)
  rwa [DeviceOp.instr, reqK_packRequest] at hlevel

end Sys2Proof.Machine
end

section
/-! PROOFS. The statements about the encodings and the decoder (30_encoding.md R71 to R84), and that every instruction and every step has an outcome (R76; 60_exceptions.md R247). -/
namespace Sys2Proof.Machine

/-! ### The rows of a request word -/

/-- The table of 30_encoding.md R72: the opcode, and the request its fields `K`, `A`, `B`, `C`, `D` and `S` give. -/
inductive RequestRow (k : Byte) (a b c d : BitVec 16) (s : BitVec 32) : Byte → Instr → Prop
  | setPixel {x y : Int} {color : Byte} (hx : sext16 a = x) (hy : sext16 b = y) (hk : k = color) :
      RequestRow k a b c d s 0x01#8 (.setPixel x y color)
  | drawLine {x0 y0 x1 y1 : Int} (hx0 : sext16 a = x0) (hy0 : sext16 b = y0) (hx1 : sext16 c = x1) (hy1 : sext16 d = y1) :
      RequestRow k a b c d s 0x02#8 (.drawLine x0 y0 x1 y1)
  | drawChar {x y : Int} {ch : Byte} (hx : sext16 a = x) (hy : sext16 b = y) (hk : k = ch) :
      RequestRow k a b c d s 0x03#8 (.drawChar x y ch)
  | drawString {x y : Int} {src : BitVec 32} {len : Nat} (hx : sext16 a = x) (hy : sext16 b = y) (hs : s = src)
      (hl : zext16 c = len) : RequestRow k a b c d s 0x04#8 (.drawString x y src len)
  | drawBitmap {x y : Int} {src : BitVec 32} {w h : Nat} (hx : sext16 a = x) (hy : sext16 b = y) (hs : s = src)
      (hw : zext16 c = w) (hh : zext16 d = h) : RequestRow k a b c d s 0x05#8 (.drawBitmap x y src w h)
  | fillFb : RequestRow k a b c d s 0x06#8 .fillFb
  | clearFb : RequestRow k a b c d s 0x07#8 .clearFb
  | init : RequestRow k a b c d s 0x10#8 .init
  | display : RequestRow k a b c d s 0x11#8 .display
  | setBrightness {level : Byte} (hk : k = level) : RequestRow k a b c d s 0x12#8 (.setBrightness level)
  | fillDisplay : RequestRow k a b c d s 0x13#8 .fillDisplay
  | clearDisplay : RequestRow k a b c d s 0x14#8 .clearDisplay

/-- The row of the table that a request word selects, by its own fields. -/
def SelectsRow (w : RequestWord) (i : Instr) : Prop :=
  RequestRow (reqK w) (reqA w) (reqB w) (reqC w) (reqD w) (reqS w) (reqOp w) i

/-- What the decoder reads from a request word: its row of the table, where `RSV` is zero. -/
theorem decode_request_iff {w : RequestWord} {i : Instr} :
    decode (.request w) = .instr i ↔ reqRsv w = 0#16 ∧ SelectsRow w i := by
  constructor
  · intro h
    replace h : decodeRequest w = .instr i := h
    unfold decodeRequest at h
    unfold SelectsRow
    obtain ⟨-, h⟩ | ⟨hr, h⟩ := ite_eq_iff.1 h
    · cases h
    refine ⟨not_not.1 hr, ?_⟩
    iterate 12
      obtain ⟨ho, h⟩ | ⟨-, h⟩ := ite_eq_iff.1 h
      · cases h
        rw [ho]
        constructor <;> rfl
    cases h
  · rintro ⟨hr, h⟩
    unfold SelectsRow at h
    rw [decode, decodeRequest, hr]
    generalize reqOp w = op at h ⊢
    cases h <;> subst_vars <;> rfl

section
variable {k : Byte} {a b c d : BitVec 16} {s : BitVec 32} {op : Byte} {i : Instr}

/-- The rows give operands in the ranges of R74. -/
theorem RequestRow.wellFormed (h : RequestRow k a b c d s op i) : WellFormed i := by
  cases h <;> subst_vars <;> simp [WellFormed, Instr.wellFormed, coordOk_sext16, dimOk_zext16]

/-- The rows are the requests. -/
theorem RequestRow.isRequest (h : RequestRow k a b c d s op i) : i.isRequest = true := by cases h <;> rfl

/-- A row's opcode is its request's. -/
theorem RequestRow.opcodeOf_eq (h : RequestRow k a b c d s op i) : opcodeOf i = op := by cases h <;> rfl

/-- The assigned opcodes (R75): 0x01 to 0x07 and 0x10 to 0x14. -/
theorem exists_requestRow_iff :
    (∃ i, RequestRow k a b c d s op i) ↔
      (0x01 ≤ op.toNat ∧ op.toNat ≤ 0x07) ∨ (0x10 ≤ op.toNat ∧ op.toNat ≤ 0x14) := by
  constructor
  · rintro ⟨i, h⟩
    cases h <;> decide
  · have ho : op = BitVec.ofNat 8 op.toNat := by simp
    generalize op.toNat = n at ho ⊢
    subst ho
    rintro (⟨h1, h2⟩ | ⟨h1, h2⟩) <;> interval_cases n
    exacts [⟨_, .setPixel rfl rfl rfl⟩, ⟨_, .drawLine rfl rfl rfl rfl⟩, ⟨_, .drawChar rfl rfl rfl⟩,
      ⟨_, .drawString rfl rfl rfl rfl⟩, ⟨_, .drawBitmap rfl rfl rfl rfl rfl⟩, ⟨_, .fillFb⟩, ⟨_, .clearFb⟩,
      ⟨_, .init⟩, ⟨_, .display⟩, ⟨_, .setBrightness rfl⟩, ⟨_, .fillDisplay⟩, ⟨_, .clearDisplay⟩]

/-- A packed word decodes to the row of the fields it packs. -/
theorem decode_packRequest (h : RequestRow k a b c d s op i) : decode (.request (packRequest op k a b c d s)) = .instr i :=
  decode_request_iff.2 ⟨reqRsv_packRequest .., by simpa [SelectsRow] using h⟩

end

/-! ### The rows of a command -/

/-- A first byte in the table decodes by its shape. -/
theorem decode_command_of_shape {b : Byte} {sh : CommandShape} (h : commandShape b = some sh) (ops : List Byte) :
    decode (.command (b :: ops)) = sh.build ops := by
  simp [decode, decodeCommand, h]

/-- A first byte outside the table is unknown, whatever follows it (44_controller_receiver.md R213). -/
theorem decode_command_of_unlisted {b : Byte} (h : operandCount b = none) (ops : List Byte) :
    decode (.command (b :: ops)) = .reject .unknownCommand := by
  simp [decode, decodeCommand, Option.map_eq_none_iff.1 h]

/-- A shape answers an instruction only to as many bytes as it takes. -/
theorem CommandShape.operands_of_build {sh : CommandShape} {ops : List Byte} {i : Instr} (h : sh.build ops = .instr i) :
    sh.operands = ops.length := by
  unfold CommandShape.build at h
  split at h
  · rfl
  · rfl
  · rfl
  · cases h

/-- The bytes of a command decode exactly when the first byte's operands follow it (R81). -/
theorem decode_command_iff (b : Byte) (ops : List Byte) :
    (∃ i, decode (.command (b :: ops)) = .instr i) ↔ operandCount b = some ops.length := by
  constructor
  · rintro ⟨i, h⟩
    cases hs : commandShape b with
    | none => exact nomatch (decode_command_of_unlisted (by simp [operandCount, hs]) ops).symm.trans h
    | some sh =>
      have hb : sh.build ops = .instr i := (decode_command_of_shape hs ops).symm.trans h
      rw [operandCount, hs, Option.map_some, CommandShape.operands_of_build hb]
  · intro h
    exact decode_whole h rfl

/-- The two open command bytes take no operand (R81). -/
theorem operandCount_openBytes : operandCount pFillDisplayCmd = some 0 ∧ operandCount pClearDisplayCmd = some 0 := by
  simp [operandCount, CommandShape.operands]

/-- The sixteen fixed first bytes. -/
theorem fixedTable_firstBytes : fixedTable.map Prod.fst =
    [0xAE#8, 0x20#8, 0x81#8, 0xA1#8, 0xA8#8, 0xC8#8, 0xD3#8, 0xD5#8, 0xD9#8, 0xDA#8, 0xDB#8, 0xA4#8, 0xA6#8, 0xAF#8,
      0x21#8, 0x22#8] := rfl

/-- A byte that is neither a fixed first byte nor an open one has no row. -/
theorem operandCount_of_unlisted {b : Byte} (hf : b ∉ fixedTable.map Prod.fst) (hon : b ≠ pFillDisplayCmd)
    (hoff : b ≠ pClearDisplayCmd) : operandCount b = none := by
  have hs : fixedShape b = none := List.lookup_eq_none_iff.2 fun p hp =>
    bne_iff_ne.2 fun he => hf (he ▸ List.mem_map_of_mem hp)
  simp [operandCount, commandShape, hs, hon, hoff]

/-- The operand count of every byte (R79, R81). -/
theorem operandCount_eq (b : Byte) : operandCount b =
    if b ∈ [0xAE#8, 0xA1#8, 0xC8#8, 0xA4#8, 0xA6#8, 0xAF#8, pFillDisplayCmd, pClearDisplayCmd] then some 0
    else if b ∈ [0x20#8, 0x81#8, 0xA8#8, 0xD3#8, 0xD5#8, 0xD9#8, 0xDA#8, 0xDB#8] then some 1
    else if b ∈ [0x21#8, 0x22#8] then some 2
    else none := by
  split_ifs with h0 h1 h2
  · have key : ∀ b ∈ [0xAE#8, 0xA1#8, 0xC8#8, 0xA4#8, 0xA6#8, 0xAF#8], operandCount b = some 0 := by decide
    have hb : b ∈ [0xAE#8, 0xA1#8, 0xC8#8, 0xA4#8, 0xA6#8, 0xAF#8] ++ [pFillDisplayCmd, pClearDisplayCmd] := h0
    obtain hfixed | hopen := List.mem_append.1 hb
    · exact key b hfixed
    · obtain rfl | rfl : b = pFillDisplayCmd ∨ b = pClearDisplayCmd := by simpa using hopen
      exacts [operandCount_openBytes.1, operandCount_openBytes.2]
  · have key : ∀ b ∈ [0x20#8, 0x81#8, 0xA8#8, 0xD3#8, 0xD5#8, 0xD9#8, 0xDA#8, 0xDB#8], operandCount b = some 1 := by decide
    exact key b h1
  · have key : ∀ b ∈ [0x21#8, 0x22#8], operandCount b = some 2 := by decide
    exact key b h2
  · simp only [List.mem_cons, List.not_mem_nil, or_false, not_or] at h0 h1 h2
    refine operandCount_of_unlisted ?_ (by tauto) (by tauto)
    simp only [fixedTable_firstBytes, List.mem_cons, List.not_mem_nil, or_false, not_or]
    tauto

/-! ### Decoding and encoding -/

/-- Settles O5, by the row each request packs and the shape each command's first byte has. -/
theorem decodeOfEncodeIsTheInstruction : Obligations.DecodeOfEncodeIsTheInstruction := by
  intro i hi
  cases i with
  | setPixel x y color =>
    obtain ⟨hx, hy⟩ := Bool.and_eq_true_iff.1 hi
    exact decode_packRequest (.setPixel (sext16_coordField hx) (sext16_coordField hy) rfl)
  | drawLine x0 y0 x1 y1 =>
    obtain ⟨hp, hq⟩ := Bool.and_eq_true_iff.1 hi
    obtain ⟨hx0, hy0⟩ := Bool.and_eq_true_iff.1 hp
    obtain ⟨hx1, hy1⟩ := Bool.and_eq_true_iff.1 hq
    exact decode_packRequest (.drawLine (sext16_coordField hx0) (sext16_coordField hy0)
      (sext16_coordField hx1) (sext16_coordField hy1))
  | drawChar x y ch =>
    obtain ⟨hx, hy⟩ := Bool.and_eq_true_iff.1 hi
    exact decode_packRequest (.drawChar (sext16_coordField hx) (sext16_coordField hy) rfl)
  | drawString x y src len =>
    obtain ⟨hp, hl⟩ := Bool.and_eq_true_iff.1 hi
    obtain ⟨hx, hy⟩ := Bool.and_eq_true_iff.1 hp
    exact decode_packRequest (.drawString (sext16_coordField hx) (sext16_coordField hy) rfl (zext16_dimField hl))
  | drawBitmap x y src w h =>
    obtain ⟨hp, hd⟩ := Bool.and_eq_true_iff.1 hi
    obtain ⟨hx, hy⟩ := Bool.and_eq_true_iff.1 hp
    obtain ⟨hw, hh⟩ := Bool.and_eq_true_iff.1 hd
    exact decode_packRequest (.drawBitmap (sext16_coordField hx) (sext16_coordField hy) rfl
      (zext16_dimField hw) (zext16_dimField hh))
  | fillFb => exact decode_packRequest .fillFb
  | clearFb => exact decode_packRequest .clearFb
  | init => exact decode_packRequest .init
  | display => exact decode_packRequest .display
  | setBrightness level => exact decode_packRequest (.setBrightness rfl)
  | fillDisplay => exact decode_packRequest .fillDisplay
  | clearDisplay => exact decode_packRequest .clearDisplay
  | displayOff | displayOn | setSegmentRemap | setComScanRemapped | resumeFromRam | normalDisplay
  | setMemoryAddressingMode | setContrast | setMultiplexRatio | setDisplayOffset | setComPins | setClockDivide
  | setPrechargePeriod | setVcomhDeselect | setColumnAddress | setPageAddress | dataByte => rfl
  | forceEntireOn => exact decode_command_of_shape commandShape_pFillDisplayCmd []
  | forceEntireOff => exact decode_command_of_shape commandShape_pClearDisplayCmd []

/-- Settles O6, by the row the word selects. -/
theorem decodedRequestsAreInRange : Obligations.DecodedRequestsAreInRange := by
  intro w i h
  obtain ⟨-, hrow⟩ := decode_request_iff.1 h
  exact ⟨hrow.wellFormed, hrow.isRequest, hrow.opcodeOf_eq⟩

/-- A signed field of a word from the field's number. -/
theorem sext16_slice (w : RequestWord) (lo : Nat) : sext16 (w.extractLsb' lo 16) = signed16 (fieldOf w lo 16) := by
  rw [sext16_eq, toNat_slice]

/-- The decoder reads the row of a word's opcode, given by the numbers of `RSV` and `OP`. -/
theorem decode_of_fields {w : RequestWord} {n : Nat} {i : Instr} (hr : fieldOf w 112 16 = 0)
    (h : RequestRow (reqK w) (reqA w) (reqB w) (reqC w) (reqD w) (reqS w) (BitVec.ofNat 8 n) i)
    (hn : fieldOf w 0 8 = n) : decode (.request w) = .instr i := by
  refine decode_request_iff.2 ⟨(slice_eq w 112 16).trans (by rw [hr]), ?_⟩
  rwa [← hn, ← slice_eq] at h

/-- Settles O7, by the row of each opcode; the fields' numbers are `slice_eq`, `sext16_slice` and `toNat_slice`. -/
theorem operandsComeFromTheListedFields : Obligations.OperandsComeFromTheListedFields := by
  intro w hrsv
  have decode_row {n i} := decode_of_fields (w := w) (n := n) (i := i) hrsv
  have hx := sext16_slice w 16
  have hy := sext16_slice w 32
  have hk := slice_eq w 8 8
  have hs := slice_eq w 80 32
  exact ⟨decode_row (.setPixel hx hy hk), decode_row (.drawLine hx hy (sext16_slice w 48) (sext16_slice w 64)),
    decode_row (.drawChar hx hy hk), decode_row (.drawString hx hy hs (toNat_slice w 48 16)),
    decode_row (.drawBitmap hx hy hs (toNat_slice w 48 16) (toNat_slice w 64 16)),
    decode_row .fillFb, decode_row .clearFb, decode_row .init, decode_row .display, decode_row (.setBrightness hk),
    decode_row .fillDisplay, decode_row .clearDisplay⟩

/-- The decoder rejects what it does not read. -/
theorem decode_rejects_iff (ws : Words) : (∃ r, decode ws = .reject r) ↔ ¬ ∃ i, decode ws = .instr i := by
  cases decode ws <;> simp

/-- Settles O8: a word is read exactly when `RSV` is zero and its opcode is assigned. -/
theorem illegalRequestWordsAreTheListedOnes : Obligations.IllegalRequestWordsAreTheListedOnes := by
  intro w
  have hrsv : reqRsv w = 0#16 ↔ fieldOf w 112 16 = 0 := by
    rw [← toNat_slice, BitVec.toNat_eq]; rfl
  have hop : (reqOp w).toNat = fieldOf w 0 8 := toNat_slice w 0 8
  rw [decode_rejects_iff]
  simp only [decode_request_iff, SelectsRow, exists_and_left, exists_requestRow_iff, hrsv, hop]
  omega

/-- Settles O58, by `operandCount_eq`, `decode_command_iff` and the shape of each listed byte. -/
theorem commandTableIsTheListedOne : Obligations.CommandTableIsTheListedOne := by
  refine ⟨operandCount_eq, fun b ops => ⟨decode_command_iff b ops, fun h => decode_command_of_unlisted h ops⟩, rfl,
    rfl, rfl, rfl, rfl, rfl, rfl,
    decode_command_of_shape commandShape_pFillDisplayCmd [], decode_command_of_shape commandShape_pClearDisplayCmd [],
    fun v u => ⟨rfl, rfl, rfl, rfl, rfl, rfl, rfl, rfl, rfl, rfl⟩⟩

/-- Settles O9: the decoder evaluated at each example word. -/
theorem exampleWordsDecodeAsListed : Obligations.ExampleWordsDecodeAsListed := by
  unfold Obligations.ExampleWordsDecodeAsListed
  decide

/-- INIT_SEQ cut into its commands (R80). -/
def initCommands : List (List Byte) :=
  [[0xAE#8], [0x20#8, 0x00#8], [0x81#8, 0x10#8], [0xA1#8], [0xA8#8, 0x3F#8], [0xC8#8], [0xD3#8, 0x00#8], [0xD5#8, 0x80#8],
   [0xD9#8, 0x22#8], [0xDA#8, 0x12#8], [0xDB#8, 0x20#8], [0xA4#8], [0xA6#8], [0xAF#8]]

/-- Settles O10, with `initCommands`. -/
theorem initSequenceIsFourteenCommands : Obligations.InitSequenceIsFourteenCommands :=
  ⟨initCommands, rfl, rfl, rfl, rfl, rfl, rfl⟩

/-! ### Every instruction and every step has an outcome -/

/-- No arm of `exec` faults or refuses. -/
theorem exec_total (i : Instr) (s : State) : ∃ t, exec i s = .next t := by
  cases i <;> exact ⟨_, rfl⟩

/-- A step runs an instruction or leaves a state, so it answers a next state. -/
theorem step_total (s : State) : ∃ t, step s = .next t := by
  cases h : fetch s with
  | run i s' => exact step_of_run h ▸ exec_total i s'
  | done s' => exact ⟨s', step_of_done h⟩

/-- Settles O18, by `step_total` and `exec_total`. -/
theorem nothingStopsTheMachine : Obligations.NothingStopsTheMachine :=
  ⟨step_total, exec_total⟩

end Sys2Proof.Machine
end

section
/-! PROOFS. The statements about SETPIXEL, FILLFB, CLEARFB and the frame of the rasterizer requests (40_raster_pixel.md R100 to R106). -/
namespace Sys2Proof.Machine

/-! ### What a rasterizer request does to the state -/

/-- STATUS after a request of opcode `op` completed OK (10_state.md R26). -/
theorem Status.pack_ok (op : Byte) : Status.pack 0#16 op Status.OK = BitVec.ofNat 32 (op.toNat * 256) := by
  have hop := op.isLt
  apply BitVec.eq_of_toNat_eq
  simp only [Status.pack, Status.OK, BitVec.toNat_append, BitVec.toNat_ofNat, Nat.shiftLeft_eq, Nat.zero_mod,
    Nat.zero_mul, Nat.zero_or, Nat.or_zero]
  omega

/-- The completion of a rasterizer request, written out. -/
theorem State.finishRaster_eq (s : State) (op : Byte) (fb : List Byte) :
    s.finishRaster op fb = { s with fb := fb, seq := .idle, status := BitVec.ofNat 32 (op.toNat * 256) } := by
  rw [← Status.pack_ok]
  rfl

/-- The frame buffer a rasterizer request leaves, from all it reads: FB, GLYPH, SRCMEM and its operands (40_raster_pixel.md R100). -/
def rasterFrame (i : Instr) (fb : List Byte) (glyph : List Glyph) (mem : List Host.Cell) : List Byte :=
  match i with
  | .setPixel x y color => Fb.plot fb x y (decide (color ≠ 0#8))
  | .drawLine x0 y0 x1 y1 => Fb.light fb (linePositions x0 y0 x1 y1)
  | .drawChar x y ch => Fb.light fb (charPoints glyph x y ch)
  | .drawString x y src len => Fb.light fb (stringPoints glyph mem x y src len)
  | .drawBitmap x y src w h => Fb.light fb (bitmapPoints mem x y src w h)
  | .fillFb => Fb.all 0xFF#8
  | .clearFb => Fb.all 0x00#8
  | _ => fb

/-- Every rasterizer request completes with its opcode and its `rasterFrame`, and changes nothing else. -/
theorem exec_rasterFrame {i : Instr} (hi : i.isRaster = true) (s : State) :
    exec i s = .next { s with
      fb := rasterFrame i s.fb s.glyph s.mem, seq := .idle, status := BitVec.ofNat 32 ((opcodeOf i).toNat * 256) } := by
  rw [← State.finishRaster_eq]
  cases i with
  | setPixel | drawLine | drawChar | drawString | drawBitmap | fillFb | clearFb => rfl
  | _ => cases hi

/-- SETPIXEL is one plot (40_raster_pixel.md R102). -/
theorem exec_setPixel (s : State) (x y : Int) (color : Byte) :
    exec (.setPixel x y color) s =
      .next { s with fb := Fb.plot s.fb x y (decide (color ≠ 0#8)), seq := .idle, status := 0x00000100#32 } :=
  rfl

/-! ### The bytes of a plot -/

/-- The address map of 20_memory.md R50 in natural numbers. -/
theorem pixelIndex_eq_toNat {x y : Int} (hx : 0 ≤ x) (hy : 0 ≤ y) : pixelIndex x y = y.toNat / 8 * 128 + x.toNat := by
  simp only [pixelIndex, Config.W]; omega

theorem pixelBit_eq_toNat {y : Int} (hy : 0 ≤ y) : pixelBit y = y.toNat % 8 := by
  simp only [pixelBit]; omega

/-- A nonzero colour sets the bit, zero clears it. -/
theorem setBit_color (v : Byte) (b : Nat) (color : Byte) :
    setBit v b (decide (color ≠ 0#8)) = if color = 0#8 then v &&& ~~~(1#8 <<< b) else v ||| (1#8 <<< b) := by
  by_cases hc : color = 0#8 <;> simp [setBit, hc]

/-- A plot in the panel writes the one bit of its pixel in the one byte of its pixel (40_raster_pixel.md R101). -/
theorem Fb.byteAt_plot {fb : List Byte} (hl : fb.length = 1024) {x y : Int} (h : InPanel x y) (c : Bool) (i : Nat) :
    Fb.byteAt (Fb.plot fb x y c) i =
      if i = pixelIndex x y then setBit (Fb.byteAt fb i) (pixelBit y) c else Fb.byteAt fb i := by
  rw [Fb.plot, if_pos h, Fb.byteAt_set _ (hl ▸ pixelIndex_lt h)]
  split
  · next hi => rw [hi]
  · rfl

/-- Settles O21, by `Fb.byteAt_plot` in the panel and `Fb.plot_outside` out of it. -/
theorem setPixelWritesOneBit : Obligations.SetPixelWritesOneBit := by
  intro s x y color hl
  refine ⟨_, exec_setPixel s x y color, (Fb.length_plot ..).trans hl, fun hx hx' hy hy' i => ?_, fun hout => ?_⟩
  · rw [Fb.byteAt_plot hl ⟨hx, hx', hy, hy'⟩, setBit_color, pixelIndex_eq_toNat hx hy, pixelBit_eq_toNat hy]
  · refine Fb.plot_outside _ fun ⟨hx, hx', hy, hy'⟩ => ?_
    simp only [Config.W, Config.H] at hx' hy'
    omega

/-! ### No cross-talk -/

/-- Plots at distinct pixels commute. -/
theorem Fb.plot_comm {fb : List Byte} (hl : fb.length = 1024) {x y u v : Int} (hne : (x, y) ≠ (u, v)) (c d : Bool) :
    Fb.plot (Fb.plot fb x y c) u v d = Fb.plot (Fb.plot fb u v d) x y c := by
  have hlen (a b e) : (Fb.plot fb a b e).length = 1024 := (Fb.length_plot ..).trans hl
  refine Fb.ext_pixels ((Fb.length_plot ..).trans (hlen ..)) ((Fb.length_plot ..).trans (hlen ..)) fun p q hp => ?_
  simp only [Fb.pixelOf_plot (hlen ..) _ _ _ hp, Fb.pixelOf_plot hl _ _ _ hp]
  by_cases hxy : p = x ∧ q = y
  · obtain ⟨rfl, rfl⟩ := hxy
    have huv : ¬ (p = u ∧ q = v) := fun ⟨hu, hv⟩ => hne (Prod.ext hu hv)
    simp [huv]
  · simp [hxy]

/-- Settles O22, by what a plot does to every pixel (`Fb.pixelOf_plot`, `Fb.plot_comm`, `Fb.plot_outside`). -/
theorem setPixelHasNoCrossTalk : Obligations.SetPixelHasNoCrossTalk := by
  intro s x y u v c d hl hxy huv
  refine ⟨fun hc => ?_, fun hne => ?_, fun hne => ?_, fun p q hout => ?_⟩
  · refine ⟨_, _, exec_setPixel s x y c, exec_setPixel _ x y 0#8, ?_, ?_⟩
    · simp [Fb.pixelOf_plot hl x y _ hxy, hc]
    · simp [Fb.pixelOf_plot ((Fb.length_plot ..).trans hl) x y _ hxy]
  · have hother : ¬ (u = x ∧ v = y) := fun ⟨hu, hv⟩ => hne (Prod.ext hu.symm hv.symm)
    exact ⟨_, exec_setPixel s x y c, (Fb.pixelOf_plot hl x y _ huv).trans (if_neg hother)⟩
  · refine ⟨_, _, _, _, exec_setPixel s x y c, exec_setPixel _ u v d, exec_setPixel s u v d, exec_setPixel _ x y c, ?_⟩
    simp only [Fb.plot_comm hl hne]
  · exact ⟨_, exec_setPixel s p q c, Fb.plot_outside _ hout⟩

/-! ### FILLFB and CLEARFB -/

/-- Settles O23: the frames of FILLFB and CLEARFB are the constant ones. -/
theorem fillAndClearWriteEveryByte : Obligations.FillAndClearWriteEveryByte :=
  fun s => ⟨exec_rasterFrame rfl s, exec_rasterFrame rfl s⟩

/-- A pixel of a constant frame buffer is its bit of the constant. -/
theorem Fb.pixelOf_all (v : Byte) {x y : Int} (h : InPanel x y) : Fb.pixelOf (Fb.all v) x y = v.getLsbD (pixelBit y) := by
  rw [Fb.pixelOf, Fb.byteAt_all v (pixelIndex_lt h)]

theorem Fb.pixelOf_all_off {x y : Int} (h : InPanel x y) : Fb.pixelOf (Fb.all 0x00#8) x y = false := by
  rw [Fb.pixelOf_all _ h, BitVec.getLsbD_zero]

theorem Fb.pixelOf_all_lit {x y : Int} (h : InPanel x y) : Fb.pixelOf (Fb.all 0xFF#8) x y = true := by
  have hall : 0xFF#8 = BitVec.allOnes 8 := rfl
  rw [Fb.pixelOf_all _ h, hall, BitVec.getLsbD_allOnes, decide_eq_true (pixelBit_lt y)]

/-- Settles O24: the constant frame buffers have all pixels equal, and pixels determine the buffer (`Fb.ext_pixels`). -/
theorem fillAndClearSettleEveryPixel : Obligations.FillAndClearSettleEveryPixel := by
  intro s
  obtain ⟨hfill, hclear⟩ := fillAndClearWriteEveryByte s
  refine ⟨_, _, hclear, hfill, fun _ _ => Fb.pixelOf_all_off, fun _ _ => Fb.pixelOf_all_lit, fun fb hl hlit => ?_,
    fun fb hl hoff => ?_⟩
  · exact Fb.ext_pixels hl (Fb.length_all _) fun x y h => (hlit x y h).trans (Fb.pixelOf_all_lit h).symm
  · exact Fb.ext_pixels hl (Fb.length_all _) fun x y h => (hoff x y h).trans (Fb.pixelOf_all_off h).symm

/-! ### The frame of a rasterizer request -/

/-- Settles O20, with `rasterFrame`: the accepted word's step is its meaning (`stepRunsTheAcceptedRequest`). -/
theorem rasterRequestsWriteOnlyFrameAndStatus : Obligations.RasterRequestsWriteOnlyFrameAndStatus := by
  intro i hraster
  refine ⟨rasterFrame i, fun s => ⟨exec_rasterFrame hraster s, fun w rest hi hs hp hd => ?_⟩⟩
  rw [stepRunsTheAcceptedRequest s w rest i hi hs hp hd, exec_rasterFrame hraster]
  simp only [hs]

end Sys2Proof.Machine
end

section
/-! PROOFS. The statements about DRAWLINE (41_raster_line.md R120 to R126). -/
namespace Sys2Proof.Machine

/-! ### The moves of a line: its loop from the origin with both steps `+1` -/

/-- A pass of R120's loop, coordinate by coordinate: one `e2` for both comparisons (41_raster_line.md R122). -/
theorem lineStep_eq (dx dy sx sy : Int) (p : Int × Int × Int) :
    lineStep dx dy sx sy p =
      (if 2 * p.2.2 > -dy then p.1 + sx else p.1,
        if 2 * p.2.2 < dx then p.2.1 + sy else p.2.1,
        p.2.2 - (if 2 * p.2.2 > -dy then dy else 0) + (if 2 * p.2.2 < dx then dx else 0)) := by
  unfold lineStep
  by_cases hx : 2 * p.2.2 > -dy <;> by_cases hy : 2 * p.2.2 < dx <;> simp [hx, hy]

/-- The count of moves in x, the count of moves in y and the error after `n` passes. -/
def lineMoves (dx dy : Nat) (n : Nat) : Int × Int × Int := (lineStep dx dy 1 1)^[n] (0, 0, (dx : Int) - dy)

theorem lineMoves_succ (dx dy n : Nat) : lineMoves dx dy (n + 1) = lineStep dx dy 1 1 (lineMoves dx dy n) :=
  Function.iterate_succ_apply' ..

/-- x and y exchanged. -/
def lineMirror (p : Int × Int × Int) : Int × Int × Int := (p.2.1, p.1, -p.2.2)

/-- The loop treats x and y alike, the error negated. -/
theorem lineMirror_lineStep (dx dy : Int) :
    Function.Semiconj lineMirror (lineStep dx dy 1 1) (lineStep dy dx 1 1) := by
  intro p
  have hx : 2 * -p.2.2 < dy ↔ 2 * p.2.2 > -dy := by omega
  have hy : 2 * -p.2.2 > -dx ↔ 2 * p.2.2 < dx := by omega
  simp only [lineStep_eq, lineMirror, hx, hy, Prod.mk.injEq, true_and]
  ring

theorem lineMirror_lineMoves (dx dy n : Nat) : lineMirror (lineMoves dx dy n) = lineMoves dy dx n := by
  rw [lineMoves, (lineMirror_lineStep dx dy).iterate_right n, lineMoves]
  simp [lineMirror]

/-- What holds after `n` passes, at most `max(dx, dy)`: the moves stay in the box, one coordinate moves in every pass, the far corner is reached at the end, and the error keeps the range of R125. -/
structure LineMoves.InRange (dx dy n : Nat) (p : Int × Int × Int) : Prop where
  x : 0 ≤ p.1 ∧ p.1 ≤ dx
  y : 0 ≤ p.2.1 ∧ p.2.1 ≤ dy
  count : max p.1 p.2.1 = n
  corner : n = max dx dy → p.1 = dx ∧ p.2.1 = dy
  err : -2 * (dy : Int) ≤ p.2.2 ∧ p.2.2 ≤ 2 * dx

theorem LineMoves.InRange.mirror {dx dy n : Nat} {p : Int × Int × Int} (h : LineMoves.InRange dx dy n p) :
    LineMoves.InRange dy dx n (lineMirror p) := by
  obtain ⟨hx, hy, hcount, hcorner, herr⟩ := h
  exact ⟨hy, hx, max_comm p.1 p.2.1 ▸ hcount, fun hn => (hcorner (max_comm dx dy ▸ hn)).symm,
    by simp only [lineMirror]; omega⟩

/-- Where x is the longer direction it moves in every pass, and the error counts the moves. -/
theorem lineMoves_xMajor {dx dy : Nat} (hdx : 0 < dx) (hle : dy ≤ dx) (n : Nat) :
    ∃ b e : Int, lineMoves dx dy n = ((n : Int), b, e) ∧ b ≤ n ∧ e = dx - dy - n * dy + b * dx ∧
      -(dy : Int) < 2 * e ∧ 2 * e < 3 * dx - 2 * dy := by
  induction n with
  | zero => exact ⟨0, dx - dy, rfl, by omega, by push_cast; ring, by omega, by omega⟩
  | succ n ih =>
    obtain ⟨b, e, hm, hb, he, hlo, hhi⟩ := ih
    rw [lineMoves_succ, hm, lineStep_eq]
    by_cases hy : 2 * e < dx
    · refine ⟨b + 1, e - dy + dx, by simp [hlo, hy], by omega, ?_, by omega, by omega⟩
      rw [he]; push_cast; ring
    · refine ⟨b, e - dy, by simp [hlo, hy], by omega, ?_, by omega, by omega⟩
      rw [he]; push_cast; ring

/-- The bounds of `lineMoves_xMajor` on the error bound the moves in y. -/
theorem lineMoves_inRange_xMajor {dx dy n : Nat} (hdx : 0 < dx) (hle : dy ≤ dx) (hn : n ≤ dx) :
    LineMoves.InRange dx dy n (lineMoves dx dy n) := by
  obtain ⟨b, e, hm, hb, he, hlo, hhi⟩ := lineMoves_xMajor hdx hle n
  have hpos : (0 : Int) < dx := by omega
  have hdone : (n : Int) * dy ≤ dx * dy := by gcongr
  have hstart : (0 : Int) ≤ n * dy := by positivity
  have hnonneg : -1 < b := lt_of_mul_lt_mul_right (by linarith) hpos.le
  have hbelow : b < dy + 1 := lt_of_mul_lt_mul_right (by linarith) hpos.le
  have hcorner : n = max dx dy → b = dy := fun hmax => by
    obtain rfl : n = dx := hmax.trans (max_eq_left hle)
    have hreached : (dy : Int) - 1 < b := lt_of_mul_lt_mul_right (by linarith) hpos.le
    omega
  rw [hm]
  exact {
    x := ⟨by omega, by omega⟩
    y := ⟨Int.add_one_le_of_lt hnonneg, Int.le_of_lt_add_one hbelow⟩
    count := max_eq_left hb
    corner := fun hmax => ⟨congrArg Nat.cast (hmax.trans (max_eq_left hle)), hcorner hmax⟩
    err := by dsimp only; omega }

/-- Where y is the longer direction the loop is the mirror of one where x is. -/
theorem lineMoves_inRange {dx dy n : Nat} (hn : n ≤ max dx dy) : LineMoves.InRange dx dy n (lineMoves dx dy n) := by
  obtain hle | hlt := le_or_gt dy dx
  · obtain rfl | hdx := Nat.eq_zero_or_pos dx
    · obtain rfl : dy = 0 := by omega
      obtain rfl : n = 0 := by omega
      exact ⟨by decide, by decide, rfl, fun _ => ⟨rfl, rfl⟩, by decide⟩
    · exact lineMoves_inRange_xMajor hdx hle (by omega)
  · rw [← lineMirror_lineMoves]
    exact (lineMoves_inRange_xMajor (by omega) hlt.le (by omega)).mirror

/-! ### The states of a line's loop -/

/-- `max(dx, dy)`, the count of passes of a line's loop (41_raster_line.md R123). -/
def linePasses (x0 y0 x1 y1 : Int) : Nat := max (x1 - x0).natAbs (y1 - y0).natAbs

/-- `(x, y, err)` after `n` passes of the loop from `(x0, y0)` to `(x1, y1)`. -/
def lineState (x0 y0 x1 y1 : Int) (n : Nat) : Int × Int × Int :=
  (lineStep (x1 - x0).natAbs (y1 - y0).natAbs (stepSign x0 x1) (stepSign y0 y1))^[n]
    (x0, y0, ((x1 - x0).natAbs : Int) - ((y1 - y0).natAbs : Int))

/-- The position after `n` passes. -/
def linePoint (x0 y0 x1 y1 : Int) (n : Nat) : Int × Int :=
  ((lineState x0 y0 x1 y1 n).1, (lineState x0 y0 x1 y1 n).2.1)

/-- Moves from `(x0, y0)` in the directions `sx`, `sy`. -/
def linePlace (x0 y0 sx sy : Int) (p : Int × Int × Int) : Int × Int × Int := (x0 + sx * p.1, y0 + sy * p.2.1, p.2.2)

theorem linePlace_lineStep (x0 y0 sx sy dx dy : Int) :
    Function.Semiconj (linePlace x0 y0 sx sy) (lineStep dx dy 1 1) (lineStep dx dy sx sy) := by
  intro p
  simp only [lineStep_eq, linePlace, Prod.mk.injEq, and_true]
  constructor <;> split <;> ring

section
variable (x0 y0 x1 y1 : Int)

theorem lineState_eq (n : Nat) : lineState x0 y0 x1 y1 n =
    linePlace x0 y0 (stepSign x0 x1) (stepSign y0 y1) (lineMoves (x1 - x0).natAbs (y1 - y0).natAbs n) := by
  rw [lineMoves, (linePlace_lineStep x0 y0 _ _ _ _).iterate_right n, lineState]
  simp [linePlace]

theorem lineState_succ (n : Nat) : lineState x0 y0 x1 y1 (n + 1) =
    lineStep (x1 - x0).natAbs (y1 - y0).natAbs (stepSign x0 x1) (stepSign y0 y1) (lineState x0 y0 x1 y1 n) :=
  Function.iterate_succ_apply' ..

end

theorem stepSign_eq (a b : Int) : stepSign a b = 1 ∨ stepSign a b = -1 := by
  unfold stepSign; split <;> simp

/-- As many moves as the distance lead from `a` to `b`, and no other count does. -/
theorem add_stepSign_mul_eq_iff (a b m : Int) (hm : 0 ≤ m) : a + stepSign a b * m = b ↔ m = (b - a).natAbs := by
  unfold stepSign; split <;> omega

/-- Moves up to the distance stay between `a` and `b`. -/
theorem add_stepSign_mul_between {a b m : Int} (h : 0 ≤ m ∧ m ≤ (b - a).natAbs) :
    min a b ≤ a + stepSign a b * m ∧ a + stepSign a b * m ≤ max a b := by
  unfold stepSign; split <;> omega

theorem add_stepSign_mul_inj {a b m k : Int} (h : a + stepSign a b * m = a + stepSign a b * k) : m = k := by
  obtain hs | hs := stepSign_eq a b <;> rw [hs] at h <;> omega

section
variable {x0 y0 x1 y1 : Int} {n : Nat} (hn : n ≤ linePasses x0 y0 x1 y1)
include hn

/-- The exit test of the loop holds exactly after `max(dx, dy)` passes. -/
theorem lineState_exit_iff :
    ((lineState x0 y0 x1 y1 n).1 = x1 ∧ (lineState x0 y0 x1 y1 n).2.1 = y1) ↔ n = linePasses x0 y0 x1 y1 := by
  obtain ⟨hx, hy, hcount, hcorner, -⟩ := lineMoves_inRange hn
  rw [lineState_eq, linePlace, add_stepSign_mul_eq_iff _ _ _ hx.1, add_stepSign_mul_eq_iff _ _ _ hy.1]
  refine ⟨fun ⟨hdx, hdy⟩ => ?_, hcorner⟩
  rw [hdx, hdy] at hcount
  exact_mod_cast hcount.symm

/-- The position stays in the box of the endpoints (41_raster_line.md R125). -/
theorem lineState_between :
    (min x0 x1 ≤ (lineState x0 y0 x1 y1 n).1 ∧ (lineState x0 y0 x1 y1 n).1 ≤ max x0 x1) ∧
    min y0 y1 ≤ (lineState x0 y0 x1 y1 n).2.1 ∧ (lineState x0 y0 x1 y1 n).2.1 ≤ max y0 y1 := by
  rw [lineState_eq]
  exact ⟨add_stepSign_mul_between (lineMoves_inRange hn).x, add_stepSign_mul_between (lineMoves_inRange hn).y⟩

/-- The error stays in `-2*dy .. 2*dx` (41_raster_line.md R125). -/
theorem lineState_err :
    -2 * ((y1 - y0).natAbs : Int) ≤ (lineState x0 y0 x1 y1 n).2.2 ∧ (lineState x0 y0 x1 y1 n).2.2 ≤ 2 * (x1 - x0).natAbs := by
  rw [lineState_eq]
  exact (lineMoves_inRange hn).err

/-- The loop returns to no position: each pass adds one to the larger count of moves. -/
theorem linePoint_inj {m : Nat} (hm : m ≤ linePasses x0 y0 x1 y1) (h : linePoint x0 y0 x1 y1 n = linePoint x0 y0 x1 y1 m) :
    n = m := by
  simp only [linePoint, lineState_eq, linePlace, Prod.mk.injEq] at h
  have hcount := (lineMoves_inRange hn).count
  rw [add_stepSign_mul_inj h.1, add_stepSign_mul_inj h.2, (lineMoves_inRange hm).count] at hcount
  exact_mod_cast hcount.symm

end

/-- A coordinate that moves by a step or not at all moves by at most 1. -/
theorem abs_sub_ite_stepSign_le (c : Prop) [Decidable c] (a b x : Int) : |x - if c then x + stepSign a b else x| ≤ 1 := by
  split
  · obtain hs | hs := stepSign_eq a b <;> simp [hs]
  · simp

/-- Consecutive positions are 8-neighbours. -/
theorem linePoint_adjacent {x0 y0 x1 y1 : Int} {n : Nat} (hn : n < linePasses x0 y0 x1 y1) :
    Adjacent (linePoint x0 y0 x1 y1 n) (linePoint x0 y0 x1 y1 (n + 1)) := by
  have hne : linePoint x0 y0 x1 y1 n ≠ linePoint x0 y0 x1 y1 (n + 1) := fun h =>
    n.lt_succ_self.ne (linePoint_inj hn.le hn h)
  refine ⟨hne, ?_⟩
  simp only [linePoint, lineState_succ, lineStep_eq]
  exact ⟨abs_sub_ite_stepSign_le .., abs_sub_ite_stepSign_le ..⟩

/-! ### The walk -/

/-- A walk whose exit test fails before its fuel ends lists the positions of its passes. -/
theorem lineWalk_eq_map {x1 y1 dx dy sx sy : Int} {fuel : Nat} {p : Int × Int × Int}
    (h : ∀ k, k + 1 < fuel →
      ¬ (((lineStep dx dy sx sy)^[k] p).1 = x1 ∧ ((lineStep dx dy sx sy)^[k] p).2.1 = y1)) :
    lineWalk x1 y1 dx dy sx sy fuel p =
      (List.range fuel).map fun k => (((lineStep dx dy sx sy)^[k] p).1, ((lineStep dx dy sx sy)^[k] p).2.1) := by
  induction fuel generalizing p with
  | zero => rfl
  | succ fuel ih =>
    rw [lineWalk, List.range_succ_eq_map, List.map_cons, List.map_map]
    congr 1
    cases fuel with
    | zero => exact ite_self _
    | succ fuel =>
      exact (if_neg (h 0 (by omega))).trans (ih fun k hk => h (k + 1) (by omega))

/-- The fuel of the walk cuts nothing: its positions are those after 0 to `max(dx, dy)` passes. -/
theorem linePositionsFrom_eq (x0 y0 x1 y1 : Int) :
    linePositionsFrom x0 y0 x1 y1 = (List.range (linePasses x0 y0 x1 y1 + 1)).map (linePoint x0 y0 x1 y1) :=
  lineWalk_eq_map fun k hk hexit =>
    have hk : k < linePasses x0 y0 x1 y1 := by unfold linePasses; omega
    hk.ne ((lineState_exit_iff hk.le).1 hexit)

section
variable (x0 y0 x1 y1 : Int)

theorem length_linePositionsFrom : (linePositionsFrom x0 y0 x1 y1).length = linePasses x0 y0 x1 y1 + 1 := by
  simp [linePositionsFrom_eq]

theorem nodup_linePositionsFrom : (linePositionsFrom x0 y0 x1 y1).Nodup := by
  rw [linePositionsFrom_eq]
  refine List.nodup_range.map_on fun n hn m hm h => ?_
  exact linePoint_inj (Nat.lt_succ_iff.1 (List.mem_range.1 hn)) (Nat.lt_succ_iff.1 (List.mem_range.1 hm)) h

theorem getElem?_linePositionsFrom (n : Nat) : (linePositionsFrom x0 y0 x1 y1)[n]? =
    if n ≤ linePasses x0 y0 x1 y1 then some (linePoint x0 y0 x1 y1 n) else none := by
  rw [linePositionsFrom_eq, List.getElem?_map]
  split
  · next hn => rw [List.getElem?_range (by omega), Option.map_some]
  · next hn => rw [List.getElem?_eq_none (by simp; omega), Option.map_none]

theorem isPath_linePositionsFrom : IsPath (x0, y0) (x1, y1) (linePositionsFrom x0 y0 x1 y1) := by
  refine ⟨?_, ?_, ?_⟩
  · rw [List.head?_eq_getElem?, getElem?_linePositionsFrom, if_pos (Nat.zero_le _)]
    rfl
  · obtain ⟨hx, hy⟩ := (lineState_exit_iff (le_refl (linePasses x0 y0 x1 y1))).2 rfl
    rw [List.getLast?_eq_getElem?, length_linePositionsFrom, Nat.add_sub_cancel, getElem?_linePositionsFrom,
      if_pos le_rfl, linePoint, hx, hy]
  · rw [linePositionsFrom_eq, List.isChain_map, List.isChain_range_succ]
    exact fun m => linePoint_adjacent

end

/-- A path has more positions than its ends are apart in either coordinate. -/
theorem abs_sub_le_of_isChain {p q : Int × Int} {l : List (Int × Int)} (hc : List.IsChain Adjacent (p :: l))
    (hq : (p :: l).getLast? = some q) : |q.1 - p.1| ≤ l.length ∧ |q.2 - p.2| ≤ l.length := by
  induction l generalizing p with
  | nil =>
    obtain rfl : p = q := by simpa using hq
    simp
  | cons r l ih =>
    obtain ⟨⟨-, hx, hy⟩, hc⟩ := List.isChain_cons_cons.1 hc
    obtain ⟨ihx, ihy⟩ := ih hc (by rwa [List.getLast?_cons_cons] at hq)
    rw [abs_le] at *
    rw [List.length_cons, abs_le]
    push_cast
    exact ⟨⟨by omega, by omega⟩, by omega, by omega⟩

/-- No path between the endpoints is shorter than the walk (41_raster_line.md R123). -/
theorem linePasses_lt_length {x0 y0 x1 y1 : Int} {l : List (Int × Int)} (h : IsPath (x0, y0) (x1, y1) l) :
    linePasses x0 y0 x1 y1 < l.length := by
  obtain ⟨hhead, hlast, hc⟩ := h
  cases l with
  | nil => cases hhead
  | cons p l =>
    obtain rfl : p = (x0, y0) := Option.some.inj hhead
    obtain ⟨hx, hy⟩ := abs_sub_le_of_isChain hc hlast
    rw [Int.abs_eq_natAbs] at hx hy
    simp only [linePasses, List.length_cons]
    omega

/-! ### The canonical order of the endpoints -/

/-- The walk of DRAWLINE is the one from `first` to `last`, and these are the endpoints in one order or the other (41_raster_line.md R121). -/
structure LineOrder (x0 y0 x1 y1 : Int) (first last : Int × Int) : Prop where
  positions : linePositions x0 y0 x1 y1 = linePositionsFrom first.1 first.2 last.1 last.2
  dx : (last.1 - first.1).natAbs = (x1 - x0).natAbs
  dy : (last.2 - first.2).natAbs = (y1 - y0).natAbs
  spanX : min first.1 last.1 = min x0 x1 ∧ max first.1 last.1 = max x0 x1
  spanY : min first.2 last.2 = min y0 y1 ∧ max first.2 last.2 = max y0 y1

section
variable (x0 y0 x1 y1 : Int)

theorem lineSwaps_eq_false_iff : lineSwaps x0 y0 x1 y1 = false ↔ x0 < x1 ∨ (x0 = x1 ∧ y0 ≤ y1) := by
  simp only [lineSwaps, Bool.or_eq_false_iff, Bool.and_eq_false_iff, decide_eq_false_iff_not]
  omega

theorem lineOrder_canonical :
    LineOrder x0 y0 x1 y1 (if x0 < x1 ∨ (x0 = x1 ∧ y0 ≤ y1) then (x0, y0) else (x1, y1))
      (if x0 < x1 ∨ (x0 = x1 ∧ y0 ≤ y1) then (x1, y1) else (x0, y0)) := by
  simp only [← lineSwaps_eq_false_iff]
  cases h : lineSwaps x0 y0 x1 y1
  · exact ⟨by simp [linePositions, h], rfl, rfl, ⟨rfl, rfl⟩, rfl, rfl⟩
  · have hcomm (a b : Int) : (a - b).natAbs = (b - a).natAbs := by omega
    exact ⟨by simp [linePositions, h], hcomm .., hcomm .., ⟨min_comm .., max_comm ..⟩, min_comm .., max_comm ..⟩

/-- Of the two orders of the endpoints one swaps and the other does not, unless they are one point. -/
theorem linePositions_swap : linePositions x0 y0 x1 y1 = linePositions x1 y1 x0 y0 := by
  have h := lineSwaps_eq_false_iff x0 y0 x1 y1
  have h' := lineSwaps_eq_false_iff x1 y1 x0 y0
  unfold linePositions
  cases hs : lineSwaps x0 y0 x1 y1 <;> cases hs' : lineSwaps x1 y1 x0 y0
  case false.true | true.false => rfl
  case false.false =>
    obtain ⟨rfl, rfl⟩ : x0 = x1 ∧ y0 = y1 := by
      have hle := h.1 hs
      have hge := h'.1 hs'
      omega
    rfl
  case true.true =>
    simp only [hs, hs', reduceCtorEq, false_iff] at h h'
    omega

end

theorem LineOrder.linePasses_eq {x0 y0 x1 y1 : Int} {first last : Int × Int} (h : LineOrder x0 y0 x1 y1 first last) :
    linePasses first.1 first.2 last.1 last.2 = max (x1 - x0).natAbs (y1 - y0).natAbs := by
  rw [linePasses, h.dx, h.dy]

/-! ### The statements -/

/-- DRAWLINE lights the positions of its walk (41_raster_line.md R120). -/
theorem exec_drawLine (s : State) (x0 y0 x1 y1 : Int) :
    exec (.drawLine x0 y0 x1 y1) s =
      .next { s with fb := Fb.light s.fb (linePositions x0 y0 x1 y1), seq := .idle, status := 0x00000200#32 } :=
  congrArg Host.Outcome.next (State.finishRaster_eq s 0x02#8 (Fb.light s.fb (linePositions x0 y0 x1 y1)))

/-- Settles O25, by `Fb.pixelOf_light`. -/
theorem drawLineLightsItsPositions : Obligations.DrawLineLightsItsPositions := by
  intro s x0 y0 x1 y1 hl
  refine ⟨_, exec_drawLine s x0 y0 x1 y1, (Fb.length_light ..).trans hl, fun u v h => ?_⟩
  rw [Fb.pixelOf_light hl _ h, Bool.or_eq_true, decide_eq_true_iff]

/-- Settles O26, by the facts about the walk from the canonical first endpoint to the second. -/
theorem lineWalkIsAMinimalPath : Obligations.LineWalkIsAMinimalPath := by
  intro x0 y0 x1 y1 first last
  have hord : LineOrder x0 y0 x1 y1 first last := lineOrder_canonical x0 y0 x1 y1
  rw [hord.positions, ← hord.linePasses_eq]
  exact ⟨length_linePositionsFrom .., nodup_linePositionsFrom .., isPath_linePositionsFrom .., fun _ => linePasses_lt_length⟩

/-- Position `k` of the line from the origin to `(m, 0)`. -/
theorem linePoint_topRow {m k : Nat} (hk : k ≤ m) : linePoint 0 0 m 0 k = ((k : Int), 0) := by
  have hn : k ≤ linePasses 0 0 m 0 := by unfold linePasses; omega
  obtain ⟨hx, hy, hcount, -⟩ := lineMoves_inRange hn
  have hmoves : (lineMoves ((m : Int) - 0).natAbs ((0 : Int) - 0).natAbs k).1 = k := by omega
  obtain ⟨-, hylo, hyhi⟩ := lineState_between hn
  refine Prod.ext ?_ (le_antisymm hyhi hylo)
  simp only [linePoint, lineState_eq, linePlace, hmoves, stepSign]
  split <;> omega

/-- The horizontal line from the origin to `(m, 0)` runs along the top row (41_raster_line.md R126). -/
theorem linePositions_topRow (m : Nat) :
    linePositions 0 0 m 0 = (List.range (m + 1)).map fun k : Nat => ((k : Int), (0 : Int)) := by
  have horder : lineSwaps 0 0 m 0 = false := (lineSwaps_eq_false_iff ..).2 (by omega)
  have hpasses : linePasses 0 0 m 0 = m := by unfold linePasses; omega
  rw [linePositions, horder, if_neg Bool.false_ne_true, linePositionsFrom_eq, hpasses]
  exact List.map_congr_left fun k hk => linePoint_topRow (Nat.lt_succ_iff.1 (List.mem_range.1 hk))

theorem Fb.light_append (fb : List Byte) (pts qts : List (Int × Int)) :
    Fb.light fb (pts ++ qts) = Fb.light (Fb.light fb pts) qts := List.foldl_append ..

/-- Lighting the first `m` pixels of the top row sets bit 0 of the first `m` bytes (20_memory.md R50). -/
theorem Fb.byteAt_light_topRow {fb : List Byte} (hl : fb.length = 1024) {m : Nat} (hm : m ≤ 128) (i : Nat) :
    Fb.byteAt (Fb.light fb ((List.range m).map fun k : Nat => ((k : Int), (0 : Int)))) i =
      if i < m then Fb.byteAt fb i ||| 0x01#8 else Fb.byteAt fb i := by
  induction m with
  | zero => rfl
  | succ m ih =>
    have hpanel : InPanel (m : Int) 0 := by simp only [InPanel, Config.W, Config.H]; omega
    have hindex : pixelIndex (m : Int) 0 = m := by simp [pixelIndex]
    rw [List.range_succ, List.map_append, Fb.light_append, List.map_singleton, Fb.light_cons, Fb.light_nil,
      Fb.byteAt_plot ((Fb.length_light ..).trans hl) hpanel, ih (by omega), hindex]
    obtain hlt | rfl | hgt := lt_trichotomy i m
    · rw [if_neg hlt.ne, if_pos hlt, if_pos (by omega)]
    · rw [if_pos rfl, if_neg (lt_irrefl i), if_pos (by omega)]
      rfl
    · rw [if_neg hgt.ne', if_neg (by omega), if_neg (by omega)]

/-- On a cleared frame buffer the line from the origin to `(m, 0)` makes bytes 0 to `m` 0x01. -/
theorem exec_drawLine_topRow {s : State} (hfb : s.fb = List.replicate 1024 0#8) {m : Nat} (hm : m < 128) :
    ∃ t, exec (.drawLine 0 0 m 0) s = .next t ∧
      ∀ i, i < 1024 → Fb.byteAt t.fb i = if i < m + 1 then 0x01#8 else 0x00#8 := by
  refine ⟨_, exec_drawLine s 0 0 m 0, fun i hi => ?_⟩
  have hcleared : Fb.byteAt (List.replicate 1024 0#8) i = 0#8 := Fb.byteAt_all 0#8 hi
  rw [hfb, linePositions_topRow, Fb.byteAt_light_topRow List.length_replicate hm, hcleared]
  rfl

/-- Settles O27: both orders have one walk (`linePositions_swap`), and the two literal lines lie in the top row. -/
theorem drawLineIsSymmetric : Obligations.DrawLineIsSymmetric := by
  refine ⟨fun s x0 y0 x1 y1 => ?_, fun s hfb => ?_, fun s hfb => exec_drawLine_topRow hfb (m := 127) (by decide)⟩
  · rw [exec_drawLine, exec_drawLine, linePositions_swap]
  · obtain ⟨t, ht, hbytes⟩ := exec_drawLine_topRow hfb (m := 0) (by decide)
    exact ⟨t, ht, fun i hi => by simpa [Nat.lt_one_iff] using hbytes i hi⟩

/-- 16-bit coordinates differ by at most 65535 (41_raster_line.md R125). -/
theorem abs_sub_le_of_coordOk {a b : Int} (ha : coordOk a = true) (hb : coordOk b = true) : |b - a| ≤ 65535 := by
  simp only [coordOk, Bool.and_eq_true, decide_eq_true_iff] at ha hb
  rw [abs_le]
  omega

/-- Settles O28: the states of the written-out pass are `lineState`. -/
theorem lineArithmeticStaysInBounds : Obligations.LineArithmeticStaysInBounds := by
  intro x0 y0 x1 y1 n hn first last dx dy sx sy pass p
  have hord : LineOrder x0 y0 x1 y1 first last := lineOrder_canonical x0 y0 x1 y1
  have hdx : dx = ((last.1 - first.1).natAbs : Int) := by rw [hord.dx, ← Int.abs_eq_natAbs]
  have hdy : dy = ((last.2 - first.2).natAbs : Int) := by rw [hord.dy, ← Int.abs_eq_natAbs]
  have hpass : pass = lineStep dx dy sx sy := (funext (lineStep_eq dx dy sx sy)).symm
  have hp : p = lineState first.1 first.2 last.1 last.2 n := by
    simp only [p, hpass, hdx, hdy]; rfl
  have hpp : pass p = lineState first.1 first.2 last.1 last.2 (n + 1) := by
    rw [lineState_succ, ← hp, hpass, hdx, hdy]
    rfl
  rw [← hord.linePasses_eq] at hn ⊢
  obtain ⟨hx, hy⟩ := lineState_between hn
  have herr := lineState_err hn
  rw [← hp, hord.spanX.1, hord.spanX.2] at hx
  rw [← hp, hord.spanY.1, hord.spanY.2] at hy
  rw [← hp, ← hdx, ← hdy] at herr
  have hexit := lineState_exit_iff hn
  rw [← hp] at hexit
  refine ⟨?_, ?_, hexit, hx.1, hx.2, hy.1, hy.2, by omega, by omega, by omega, by omega, fun hx0 hy0 hx1 hy1 => ?_⟩
  · rw [hord.positions, getElem?_linePositionsFrom, if_pos hn, linePoint, hp]
  · rw [hord.positions, getElem?_linePositionsFrom, linePoint, hpp]
    by_cases hlast : n = linePasses first.1 first.2 last.1 last.2
    · rw [if_pos (hexit.2 hlast), if_neg (by omega)]
    · rw [if_neg (mt hexit.1 hlast), if_pos (by omega)]
  · have hdx' : dx ≤ 65535 := abs_sub_le_of_coordOk hx0 hx1
    have hdy' : dy ≤ 65535 := abs_sub_le_of_coordOk hy0 hy1
    omega

end Sys2Proof.Machine
end

section
/-! PROOFS. The statements about DRAWCHAR, DRAWSTRING and DRAWBITMAP (42_raster_glyph_bitmap.md R140 to R148). -/
namespace Sys2Proof.Machine

/-! ### The three requests light a list of points -/

/-- DRAWCHAR lights the points of its character (R140). -/
theorem exec_drawChar (s : State) (x y : Int) (ch : Byte) :
    exec (.drawChar x y ch) s =
      .next { s with fb := Fb.light s.fb (charPoints s.glyph x y ch), seq := .idle, status := 0x00000300#32 } :=
  congrArg Host.Outcome.next (State.finishRaster_eq s 0x03#8 (Fb.light s.fb (charPoints s.glyph x y ch)))

/-- DRAWSTRING lights the points of its characters (R143). -/
theorem exec_drawString (s : State) (x y : Int) (src : BitVec 32) (len : Nat) :
    exec (.drawString x y src len) s =
      .next { s with fb := Fb.light s.fb (stringPoints s.glyph s.mem x y src len), seq := .idle, status := 0x00000400#32 } :=
  congrArg Host.Outcome.next (State.finishRaster_eq s 0x04#8 (Fb.light s.fb (stringPoints s.glyph s.mem x y src len)))

/-- DRAWBITMAP lights the points of its image (R146). -/
theorem exec_drawBitmap (s : State) (x y : Int) (src : BitVec 32) (w h : Nat) :
    exec (.drawBitmap x y src w h) s =
      .next { s with fb := Fb.light s.fb (bitmapPoints s.mem x y src w h), seq := .idle, status := 0x00000500#32 } :=
  congrArg Host.Outcome.next (State.finishRaster_eq s 0x05#8 (Fb.light s.fb (bitmapPoints s.mem x y src w h)))

/-- A request that lights a list of points lights in the panel what it covers (`Covered`) and clears nothing. -/
theorem exec_lights_covered {i : Instr} {s : State} {pts : List (Int × Int)} {status : BitVec 32} {Covered : Int → Int → Prop}
    (hl : s.fb.length = 1024) (hexec : exec i s = .next { s with fb := Fb.light s.fb pts, seq := .idle, status := status })
    (hpts : ∀ u v, (u, v) ∈ pts ↔ Covered u v) :
    ∃ fb, exec i s = .next { s with fb := fb, seq := .idle, status := status } ∧ fb.length = 1024 ∧
      ∀ u v, InPanel u v → (Fb.pixelOf fb u v = true ↔ Fb.pixelOf s.fb u v = true ∨ Covered u v) := by
  refine ⟨_, hexec, (Fb.length_light ..).trans hl, fun u v h => ?_⟩
  rw [Fb.pixelOf_light hl _ h, Bool.or_eq_true, decide_eq_true_iff, hpts]

/-! ### Characters and strings -/

/-- The column bytes of a glyph in a list. -/
theorem Glyph.column_eq_getD (g : Glyph) {col : Nat} (hcol : col < 5) :
    g.column col = [g.c0, g.c1, g.c2, g.c3, g.c4].getD col 0#8 := by
  interval_cases col <;> rfl

/-- A point of a character is a point of the glyph its code has. -/
theorem mem_charPoints_iff_glyphPoints {glyphs : List Glyph} {x y : Int} {ch : Byte} {p : Int × Int} :
    p ∈ charPoints glyphs x y ch ↔ ∃ g, glyphAt glyphs ch = some g ∧ p ∈ glyphPoints g x y := by
  unfold charPoints
  cases glyphAt glyphs ch <;> simp

/-- A point of a character is a set bit of the glyph of a code in 32 to 127 (R140, R141). -/
theorem mem_charPoints {glyphs : List Glyph} {x y u v : Int} {ch : Byte} :
    (u, v) ∈ charPoints glyphs x y ch ↔
      ∃ (g : Glyph) (col row : Nat), 32 ≤ ch.toNat ∧ ch.toNat ≤ 127 ∧ glyphs[ch.toNat - 32]? = some g ∧ col < 5 ∧ row < 8 ∧
        ([g.c0, g.c1, g.c2, g.c3, g.c4].getD col 0#8).getLsbD row = true ∧ u = x + col ∧ v = y + row := by
  simp only [mem_charPoints_iff_glyphPoints, glyphAt_eq_some, mem_glyphPoints]
  constructor
  · rintro ⟨g, ⟨hmin, hmax, hg⟩, col, row, hcol, hrow, hbit, hu, hv⟩
    exact ⟨g, col, row, hmin, hmax, hg, hcol, hrow, g.column_eq_getD hcol ▸ hbit, hu, hv⟩
  · rintro ⟨g, col, row, hmin, hmax, hg, hcol, hrow, hbit, hu, hv⟩
    exact ⟨g, ⟨hmin, hmax, hg⟩, col, row, hcol, hrow, g.column_eq_getD hcol ▸ hbit, hu, hv⟩

/-- A point of a string is a point of a character `k`, drawn at `x + 6*k` (R143, R145). -/
theorem mem_stringPoints {glyphs : List Glyph} {mem : List Host.Cell} {x y : Int} {src : BitVec 32} {len : Nat}
    {p : Int × Int} :
    p ∈ stringPoints glyphs mem x y src len ↔
      ∃ k < len, p ∈ charPoints glyphs (x + 6 * k) y (Memory.read mem (BitVec.ofNat 32 (src.toNat + k))) := by
  simp only [stringPoints, List.mem_flatMap, List.mem_range, srcAddr_eq, Config.charAdv, Nat.cast_ofNat]

/-- Settles O29, by `mem_charPoints`. -/
theorem drawCharLightsItsGlyph : Obligations.DrawCharLightsItsGlyph :=
  fun s x y ch hl _ => exec_lights_covered hl (exec_drawChar s x y ch) fun _ _ => mem_charPoints

/-- Settles O30, by `mem_stringPoints`: each of the characters is a `mem_charPoints` at its own origin. -/
theorem drawStringLightsItsGlyphs : Obligations.DrawStringLightsItsGlyphs := by
  refine fun s x y src len hl _ => exec_lights_covered hl (exec_drawString s x y src len) fun u v => ?_
  simp only [mem_stringPoints, mem_charPoints, ← exists_and_left]

/-! ### Bitmaps -/

/-- A bit of the image, most significant first in rows of `ceil(w/8)` bytes (R147). -/
theorem bitmapBit_eq (mem : List Host.Cell) (src : BitVec 32) (w col row : Nat) :
    bitmapBit mem src w col row =
      (Memory.read mem (BitVec.ofNat 32 (src.toNat + row * ((w + 7) / 8) + col / 8))).getLsbD (7 - col % 8) := by
  rw [bitmapBit, srcAddr_eq, bitmapStride, Nat.add_assoc]

/-- Settles O31, by `mem_bitmapPoints` and `bitmapBit_eq`. -/
theorem drawBitmapLightsItsBits : Obligations.DrawBitmapLightsItsBits := by
  refine fun s x y src w h hl => exec_lights_covered hl (exec_drawBitmap s x y src w h) fun u v => ?_
  simp only [mem_bitmapPoints, bitmapBit_eq]
  constructor
  · rintro ⟨col, row, hcol, hrow, hbit, hu, hv⟩
    exact ⟨col, row, hcol, hrow, hu, hv, hbit⟩
  · rintro ⟨col, row, hcol, hrow, hu, hv, hbit⟩
    exact ⟨col, row, hcol, hrow, hbit, hu, hv⟩

/-- Settles O32: every in-panel pixel lies under one of the bitmap's bits (`drawBitmapLightsItsBits`), all of them set, and the
pixels determine the buffer (`Fb.ext_pixels`). -/
theorem fullBitmapEqualsFill : Obligations.FullBitmapEqualsFill := by
  intro s src hl hsrc
  obtain ⟨fb, hexec, hfb, hlit⟩ := drawBitmapLightsItsBits s 0 0 src 128 64 hl
  obtain ⟨hfill, -⟩ := fillAndClearWriteEveryByte s
  refine ⟨_, _, hexec, hfill, Fb.ext_pixels hfb (Fb.length_all 0xFF#8) fun u v hp => ?_⟩
  have ⟨hu, hu', hv, hv'⟩ := hp
  simp only [Config.W, Config.H] at hu' hv'
  refine ((hlit u v hp).2 (.inr ⟨u.toNat, v.toNat, by omega, by omega, by omega, by omega, ?_⟩)).trans
    (Fb.pixelOf_all_lit hp).symm
  have hall : 0xFF#8 = BitVec.allOnes 8 := rfl
  rw [Nat.add_assoc, hsrc _ (by omega), hall, BitVec.getLsbD_allOnes, decide_eq_true (by omega)]

end Sys2Proof.Machine
end

section
/-! PROOFS. The statements about the device protocol: the acceptance, the bus writes and the ends of the five device requests (43_device_protocol.md R170 to R196). -/
namespace Sys2Proof.Machine

/-! ### One step of a device request, written out -/

/-- STATUS as a number (10_state.md R26). -/
theorem Status.pack_eq (info : BitVec 16) (op code : Byte) :
    Status.pack info op code = BitVec.ofNat 32 (info.toNat * 65536 + op.toNat * 256 + code.toNat) := by
  have hinfo := info.isLt
  have hop := op.isLt
  have hcode := code.isLt
  apply BitVec.eq_of_toNat_eq
  rw [Status.pack, BitVec.toNat_append, BitVec.toNat_append, ← Nat.shiftLeft_add_eq_or_of_lt hop,
    ← Nat.shiftLeft_add_eq_or_of_lt hcode, BitVec.toNat_ofNat, Nat.shiftLeft_eq, Nat.shiftLeft_eq]
  omega

/-- A bus write whose answer is known. -/
theorem State.busWrite_of_answer {s : State} {a : Answer} (ha : s.nextAnswer = a) (b : BusByte) :
    s.busWrite b = { s with
      trace := s.trace ++ [b.answered a], inbox := s.inbox ++ [b.answered a],
      answers := s.answers.tail, draws := s.draws + 1 } := by
  rw [State.busWrite, ha]

/-- Settles O33: an idle device request starts or is misuse, and in UNINIT only INIT starts. -/
theorem misuseIsReportedBeforeAnyTransaction : Obligations.MisuseIsReportedBeforeAnyTransaction := by
  intro s hs
  refine ⟨exec_device_starts hs (op := .init) (.inl rfl) 0, fun hu => ?_⟩
  have hmisuse : ∀ (op : DeviceOp) (req : RequestWord), op ≠ .init →
      exec (op.instr req) s = .next { s with status := BitVec.ofNat 32 (op.code.toNat * 256 + 2) } := by
    intro op req ho
    rw [exec_device_idle hs, if_neg (by simp [ho, hu]), State.raise, State.complete, Status.pack_eq, ← hs]
    simp
  refine ⟨hmisuse .display 0 nofun, fun level => ?_, hmisuse .fillDisplay 0 nofun, hmisuse .clearDisplay 0 nofun⟩
  have hlevel := hmisuse .setBrightness (packRequest 0x12#8 level 0 0 0 0 0) nofun
  rwa [DeviceOp.instr, reqK_packRequest] at hlevel

/-- Settles O35, by the bus-write step that is answered `ok` and is not the last. -/
theorem answeredTransactionAdvancesTheRequest : Obligations.AnsweredTransactionAdvancesTheRequest := by
  intro s op k b hs hb hk ha
  rw [exec_inProgress hs, State.sendStep_more hb ha hk, State.busWrite_of_answer ha]
  rfl

/-- Settles O36: the bus-write step that is answered `fail` ends the request by `onFail`, which writes PSTATE and the shadows
alone; the waiting transaction then makes the controller LOST. -/
theorem transportFailureEndsTheRequest : Obligations.TransportFailureEndsTheRequest := by
  intro s op k b hinv hs hb ha
  have hk : k < 65536 := by
    have := hinv.position op k hs
    have := length_requestTxns_le hinv.fbSize op
    omega
  have hstatus : Status.pack (BitVec.ofNat 16 k) op.code Status.TRANSPORT_FAILURE =
      BitVec.ofNat 32 (k * 65536 + op.code.toNat * 256 + 1) := by
    rw [Status.pack_eq, BitVec.toNat_ofNat, Nat.mod_eq_of_lt hk]
    rfl
  obtain ⟨_, _, _, _, _, hframe⟩ := onFail_frame op (s.busWrite b)
  refine ⟨(onFail op (s.busWrite b)).complete (BitVec.ofNat 16 k) op.code Status.TRANSPORT_FAILURE,
    by rw [exec_inProgress hs, State.sendStep_fail hb ha], ?_, ?_, ?_, ?_, ?_, ?_, fun hi => ?_⟩
  · rw [← hstatus, hframe, State.busWrite_of_answer ha]
    rfl
  · rintro rfl
    exact ⟨rfl, rfl, rfl, rfl, rfl⟩
  · intro ho
    cases op with
    | init => exact absurd rfl ho
    | display | setBrightness | fillDisplay | clearDisplay => exact ⟨rfl, rfl, rfl⟩
  · rintro rfl
    exact ⟨rfl, rfl⟩
  · rintro rfl
    exact ⟨rfl, rfl⟩
  · rintro (rfl | rfl) <;> exact ⟨rfl, rfl⟩
  · have hinbox : ((onFail op (s.busWrite b)).complete (BitVec.ofNat 16 k) op.code Status.TRANSPORT_FAILURE).inbox =
        [b.answered .fail] := by simp [hframe, ha, hi]
    exact ⟨_, step_receive hinbox, by rw [BusByte.answered, Controller.after_fail]; rfl⟩

/-- The last bus write of a device request, answered `ok`, ends it by `onOk`. -/
theorem exec_last {s : State} {op : DeviceOp} {k : Nat} {b : BusByte} (hs : s.seq = .busy op k)
    (hb : (requestTxns op s)[k]? = some b) (hk : (requestTxns op s).length = k + 1) (ha : s.nextAnswer = .ok) :
    exec (op.instr s.req) s = .next ((onOk op s.req { s with
      trace := s.trace ++ [b.answered .ok], inbox := s.inbox ++ [b.answered .ok],
      answers := s.answers.tail, draws := s.draws + 1 }).complete 0#16 op.code Status.OK) := by
  rw [exec_inProgress hs, State.sendStep_last hb ha hk.le, State.busWrite_of_answer ha]

/-- Settles O37, by the last bus-write step of INIT. -/
theorem successfulInitActivates : Obligations.SuccessfulInitActivates := fun _ hs ha =>
  exec_last (b := .cmd 0xAF#8) hs rfl rfl ha

/-- SETBRIGHTNESS's last bus write, whatever level it is run with. -/
theorem exec_setBrightness_last {s : State} (hs : s.seq = .busy .setBrightness 1) (ha : s.nextAnswer = .ok) (level : Byte) :
    exec (.setBrightness level) s =
      .next (State.complete { s.busWrite (.cmd level) with contrast := .known level } 0#16 0x12#8 Status.OK) := by
  rw [exec, execSetBrightness, hs, Seq.position_busy]
  exact congrArg Host.Outcome.next (State.sendStep_last (t := .cmd level) rfl ha le_rfl)

/-- DISPLAY's last transaction is the last byte of FB (43_device_protocol.md R183). -/
theorem displayTxns_last {fb : List Byte} (h : fb.length = 1024) :
    (displayTxns fb)[1029]? = some (.dat (Fb.byteAt fb 1023)) := by
  have hw : windowTxns.length = 6 := rfl
  rw [displayTxns, List.getElem?_append_right (by rw [hw]; decide), hw, List.getElem?_map, Fb.byteAt,
    List.getD_eq_getElem?_getD, List.getElem?_eq_getElem (by rw [h]; decide)]
  rfl

/-- Settles O38, by the last bus-write step of each request. -/
theorem successfulDeviceRequestsComplete : Obligations.SuccessfulDeviceRequestsComplete := by
  refine ⟨fun s hfb hs ha => ?_, fun s level hs ha => ?_, fun s hs ha => ?_, fun s hs ha => ?_⟩
  · exact exec_last hs (displayTxns_last hfb) (by rw [length_requestTxns_display, hfb]) ha
  · rw [exec_setBrightness_last hs ha, State.busWrite_of_answer ha]
    rfl
  · exact exec_last (b := .cmd pFillDisplayCmd) hs rfl rfl ha
  · exact exec_last (b := .cmd pClearDisplayCmd) hs rfl rfl ha

end Sys2Proof.Machine
end

section
/-! PROOFS. The steps of a whole device request are `Send`, for every answer sequence (43_device_protocol.md R172, R173). -/
namespace Sys2Proof.Machine

/-! ### One transaction: its bus write and its reception -/

/-- `s` after the transactions `ts` were put on the bus and received, the state of the request in progress apart. -/
def State.emitted (s : State) (ts : List Txn) : State :=
  { s with
    trace := s.trace ++ ts, ctl := s.ctl.afterAll ts, answers := s.answers.drop ts.length, draws := s.draws + ts.length }

/-- Transactions put on the bus one list after the other. -/
theorem State.emitted_append (s : State) (ts us : List Txn) : (s.emitted ts).emitted us = s.emitted (ts ++ us) := by
  simp [State.emitted, Controller.afterAll_append, Nat.add_assoc]

/-- `s` with what the controller still has to receive, and the controller. -/
def State.withReceiver (s : State) (inbox : List Txn) (c : Controller) : State := { s with inbox := inbox, ctl := c }

/-- A change of the state that neither reads nor writes the inbox and the controller. -/
def KeepsReceiver (f : State → State) : Prop :=
  ∀ (s : State) (inbox : List Txn) (c : Controller), f (s.withReceiver inbox c) = (f s).withReceiver inbox c

theorem KeepsReceiver.inbox_eq {f : State → State} (hf : KeepsReceiver f) (s : State) : (f s).inbox = s.inbox :=
  (congrArg State.inbox (hf s s.inbox s.ctl) :)

theorem KeepsReceiver.ctl_eq {f : State → State} (hf : KeepsReceiver f) (s : State) : (f s).ctl = s.ctl :=
  (congrArg State.ctl (hf s s.inbox s.ctl) :)

/-- A request's end, every write answered `ok`, does not read what the controller receives. -/
theorem keepsReceiver_onOk (op : DeviceOp) (req : RequestWord) (info : BitVec 16) (code : Byte) :
    KeepsReceiver fun s => (onOk op req s).complete info op.code code := by
  intro s inbox c
  cases op <;> rfl

/-- Nor does a request's failure. -/
theorem keepsReceiver_onFail (op : DeviceOp) (info : BitVec 16) (code : Byte) :
    KeepsReceiver fun s => (onFail op s).complete info op.code code := by
  intro s inbox c
  cases op <;> rfl

/-- A step that writes `b` to the bus and then changes the state by `f`, and the reception of `b`. -/
theorem runs_write {s : State} {b : BusByte} {a : Answer} {f : State → State} (hf : KeepsReceiver f) (hi : s.inbox = [])
    (ha : s.nextAnswer = a) (h : step s = .next (f (s.busWrite b))) (n : Nat) :
    runs (n + 2) s = runs n (f (s.emitted [b.answered a])) := by
  have hinbox : (f (s.busWrite b)).inbox = [b.answered a] := by rw [hf.inbox_eq, State.busWrite_inbox, hi, ha]; rfl
  have hemitted : (s.busWrite b).withReceiver [] (s.ctl.after (b.answered a)) = s.emitted [b.answered a] := by
    rw [State.busWrite_of_answer ha]
    simp [State.withReceiver, State.emitted, hi]
  have hreceive : step (f (s.busWrite b)) = .next (f (s.emitted [b.answered a])) := by
    rw [← hemitted, hf, step_receive hinbox, hf.ctl_eq]
    rfl
  rw [runs_succ (n + 1) h, runs_succ n hreceive]

/-! ### A request's steps are `Send` (43_device_protocol.md R172, R173) -/

@[simp] theorem sendTrace_nil (as : List Answer) : sendTrace [] as = [] := by
  cases as <;> rfl

@[simp] theorem sendTrace_cons_ok (t : BusByte) (ts : List BusByte) (as : List Answer) :
    sendTrace (t :: ts) (.ok :: as) = t.answered .ok :: sendTrace ts as := rfl

@[simp] theorem sendTrace_cons_fail (t : BusByte) (ts : List BusByte) (as : List Answer) :
    sendTrace (t :: ts) (.fail :: as) = [t.answered .fail] := rfl

/-- `s` after its request `op`, which stood at transaction `k`, ended with the transactions `ts`. -/
def State.sent (s : State) (op : DeviceOp) (k : Nat) (ts : List Txn) : State :=
  if allOk ts then (onOk op s.req (s.emitted ts)).complete 0#16 op.code Status.OK
  else (onFail op (s.emitted ts)).complete (BitVec.ofNat 16 (k + ts.length - 1)) op.code Status.TRANSPORT_FAILURE

/-- A request that ends after one more transaction answered `ok`. -/
theorem State.sent_cons_ok (s : State) (op : DeviceOp) (k : Nat) (b : BusByte) (ts : List Txn) :
    State.sent { s.emitted [b.answered .ok] with seq := .busy op (k + 1) } op (k + 1) ts =
      s.sent op k (b.answered .ok :: ts) := by
  have hok : allOk (b.answered .ok :: ts) = allOk ts := by simp [allOk, BusByte.answered]
  have hlen : k + 1 + ts.length - 1 = k + (ts.length + 1) - 1 := by omega
  have hemitted : State.emitted { s.emitted [b.answered .ok] with seq := .busy op (k + 1) } ts =
      { s.emitted (b.answered .ok :: ts) with seq := .busy op (k + 1) } :=
    congrArg (fun u : State => { u with seq := .busy op (k + 1) }) (s.emitted_append [b.answered .ok] ts)
  rw [State.sent, State.sent, hok, hemitted, hlen, List.length_cons]
  cases op <;> rfl

/-- The steps of a request from transaction `k` on, whose remaining transactions are `txns`. -/
theorem runs_send {op : DeviceOp} {txns : List BusByte} {s : State} {k : Nat} {ans more : List Answer}
    (hs : s.seq = .busy op k) (hi : s.inbox = []) (htxns : (requestTxns op s).drop k = txns) (hne : txns ≠ [])
    (hans : s.answers = ans ++ more) (hlen : ans.length = txns.length) :
    runs (2 * (sendTrace txns ans).length) s = .next (s.sent op k (sendTrace txns ans)) := by
  induction txns generalizing s k ans with
  | nil => exact absurd rfl hne
  | cons b rest ih =>
    obtain ⟨a, ans, rfl⟩ := List.exists_cons_of_length_eq_add_one hlen
    have hb : (requestTxns op s)[k]? = some b := by rw [← List.head?_drop, htxns]; rfl
    have hrest : (requestTxns op s).drop (k + 1) = rest := by rw [← List.tail_drop, htxns]; rfl
    have hleft : (requestTxns op s).length - k = rest.length + 1 := by rw [← List.length_drop, htxns]; rfl
    have ha : s.nextAnswer = a := State.nextAnswer_cons hans
    have hstep := step_busy hi hs
    cases a with
    | fail =>
      rw [State.sendStep_fail hb ha] at hstep
      exact runs_write (keepsReceiver_onFail op _ _) hi ha hstep 0
    | ok =>
      cases rest with
      | nil =>
        rw [List.length_nil] at hleft
        rw [State.sendStep_last hb ha (by omega)] at hstep
        rw [sendTrace_cons_ok, sendTrace_nil]
        exact runs_write (keepsReceiver_onOk op s.req _ _) hi ha hstep 0
      | cons c rest =>
        rw [List.length_cons] at hleft
        rw [State.sendStep_more hb ha (by omega)] at hstep
        have hrun := runs_write (f := fun s => { s with seq := .busy op (k + 1) }) (fun _ _ _ => rfl) hi ha hstep
        rw [sendTrace_cons_ok, List.length_cons, Nat.mul_add, hrun, ← State.sent_cons_ok]
        refine ih rfl hi ?_ (List.cons_ne_nil _ _) ?_ (by simpa using hlen)
        · rw [← hrest]
          exact congrArg (List.drop (k + 1)) (requestTxns_congr op rfl rfl)
        · simp [State.emitted, hans]

/-- The completion of a request leaves what a transaction leaves, but for PSTATE, the shadows, STATUS and SEQ. -/
theorem State.sent_frame (s : State) (op : DeviceOp) (k : Nat) (ts : List Txn) :
    ∃ p c a w d, s.sent op k ts = { s.emitted ts with
      pstate := p, contrast := c, addrMode := a, power := w, dispSrc := d, seq := .idle, status := (s.sent op k ts).status } := by
  unfold State.sent
  split
  · obtain ⟨p, c, a, w, d, hframe⟩ := onOk_frame op s.req (s.emitted ts)
    exact ⟨p, c, a, w, d, by rw [hframe]; rfl⟩
  · obtain ⟨p, c, a, w, d, hframe⟩ := onFail_frame op (s.emitted ts)
    exact ⟨p, c, a, w, d, by rw [hframe]; rfl⟩

/-- STATUS tells how a request that started at transaction 0 ended. -/
theorem State.sent_status (s : State) (op : DeviceOp) (ts : List Txn) :
    (s.sent op 0 ts).status = if allOk ts then Status.pack 0#16 op.code Status.OK
      else Status.pack (BitVec.ofNat 16 (ts.length - 1)) op.code Status.TRANSPORT_FAILURE := by
  rw [State.sent, Nat.zero_add]
  split <;> rfl

/-- Settles O39, by `runs_send` from transaction 0 and what the end of a request leaves unchanged. -/
theorem requestStepsRefineSend : Obligations.RequestStepsRefineSend := by
  intro s op ans more _ hs hi hans hlen
  have hne : requestTxns op s ≠ [] := List.length_pos_iff.1 (requestTxns_pos op s)
  have hrun := runs_send hs hi List.drop_zero hne hans hlen
  obtain ⟨_, _, _, _, _, hframe⟩ := s.sent_frame op 0 (sendTrace (requestTxns op s) ans)
  refine ⟨_, hrun, ?_⟩
  rw [State.sent_status, hframe]
  exact ⟨rfl, hi, rfl, rfl, rfl, rfl, rfl, rfl, rfl, rfl⟩

end Sys2Proof.Machine
end

section
/-! PROOFS. The statements about a device request answered `ok` throughout, from its acceptance to what the controller makes of it (43_device_protocol.md R176 to R196; 44_controller_receiver.md R214 to R225). -/
namespace Sys2Proof.Machine

/-! ### A request accepted and answered `ok` throughout -/

theorem answeredOk_append (ts us : List BusByte) : answeredOk (ts ++ us) = answeredOk ts ++ answeredOk us := List.map_append

/-- Where every answer is `ok`, `Send` puts every transaction on the bus. -/
theorem sendTrace_replicate_ok (txns : List BusByte) : sendTrace txns (List.replicate txns.length .ok) = answeredOk txns := by
  induction txns with
  | nil => rfl
  | cons t ts ih => exact congrArg (t.answered .ok :: ·) ih

/-- Transactions that are all answered `ok` show no failure. -/
theorem allOk_answeredOk (txns : List BusByte) : allOk (answeredOk txns) = true := by
  simp [allOk, answeredOk, BusByte.answered]

/-- The completion of a request writes SEQ whatever it was, and STATUS. -/
theorem onOk_complete_of_idle {s : State} (hs : s.seq = .idle) (op : DeviceOp) (req : RequestWord) (q : Seq) :
    (onOk op req { s with seq := q }).complete 0#16 op.code Status.OK =
      { onOk op req s with status := Status.pack 0#16 op.code Status.OK } := by
  cases op <;> simp [onOk, State.initOk, State.complete, hs]

/-- A device request presented to an idle machine and answered `ok` throughout, from its acceptance to the controller's
reception of its last transaction. -/
theorem runs_accepted {s : State} {w : RequestWord} {rest : List RequestWord} {more : List Answer} {op : DeviceOp}
    {txns : List BusByte} {n : Nat} (hs : s.seq = .idle) (hi : s.inbox = []) (hp : s.port = w :: rest)
    (hd : decode (.request w) = .instr (op.instr w)) (ha : op = .init ∨ s.pstate = .active)
    (htxns : requestTxns op { s with port := rest, req := w } = txns) (hn : txns.length = n)
    (hans : s.answers = List.replicate n .ok ++ more) :
    runs (2 * n + 1) s = .next { onOk op w { s with
      port := rest, req := w, trace := s.trace ++ answeredOk txns, ctl := s.ctl.afterAll (answeredOk txns),
      answers := more, draws := s.draws + n } with status := Status.pack 0#16 op.code Status.OK } := by
  subst n
  have hlen : (answeredOk txns).length = txns.length := List.length_map _
  have hstart : step s = .next { s with port := rest, req := w, seq := .busy op 0 } := by
    rw [stepRunsTheAcceptedRequest s w rest _ hi hs hp hd]
    exact exec_device_starts (s := { s with port := rest, req := w }) hs ha w
  have hne : txns ≠ [] := htxns ▸ List.length_pos_iff.1 (requestTxns_pos op _)
  have hbusy : requestTxns op { s with port := rest, req := w, seq := .busy op 0 } = txns :=
    (requestTxns_congr op rfl rfl).trans htxns
  have hrun := runs_send (s := { s with port := rest, req := w, seq := .busy op 0 }) (more := more) rfl hi hbusy hne hans
    List.length_replicate
  have hemitted : State.emitted { s with port := rest, req := w } (answeredOk txns) = { s with
      port := rest, req := w, trace := s.trace ++ answeredOk txns, ctl := s.ctl.afterAll (answeredOk txns),
      answers := more, draws := s.draws + txns.length } := by
    simp [State.emitted, hlen, hans]
  rw [sendTrace_replicate_ok, hlen, State.sent, if_pos (allOk_answeredOk txns)] at hrun
  rw [runs_succ _ hstart, hrun, ← hemitted]
  have hidle : (State.emitted { s with port := rest, req := w } (answeredOk txns)).seq = .idle := hs
  exact congrArg Host.Outcome.next (onOk_complete_of_idle hidle op w (.busy op 0))

/-! ### A ready controller and whole commands -/

/-- A ready controller takes the bytes of a whole command off a list of transactions. -/
theorem Controller.Ready.command {c : Controller} (h : c.Ready) {bytes : List Byte} {i : Instr}
    (hd : decode (.command bytes) = .instr i) (ts : List BusByte) :
    c.afterAll (answeredOk (bytes.map .cmd ++ ts)) = (Controller.effect i c).afterAll (answeredOk ts) := by
  obtain _ | ⟨b, ops⟩ := bytes
  · exact nomatch hd
  · cases hs : commandShape b with
    | none => exact nomatch (decode_command_of_unlisted (by simp [operandCount, hs]) ops).symm.trans hd
    | some sh =>
      rw [decode_command_of_shape hs, CommandShape.build.eq_def] at hd
      split at hd <;> cases hd
      · exact h.op0 hs ts
      · exact h.op1 hs ts
      · exact h.op2 hs ts

/-- A ready controller takes a list of whole commands that each leave it ready. -/
theorem Controller.Ready.commands {c : Controller} (h : c.Ready) {cmds : List (List Byte)} {is : List Instr}
    (hd : cmds.map decodeCommand = is.map .instr) (hready : ∀ i ∈ is, ∀ d : Controller, d.Ready → (Controller.effect i d).Ready) :
    c.afterAll (answeredOk (cmds.flatten.map .cmd)) = is.foldl (fun d i => Controller.effect i d) c := by
  induction cmds generalizing c is with
  | nil => obtain rfl := List.map_eq_nil_iff.1 hd.symm; rfl
  | cons bytes cmds ih =>
    obtain ⟨i, is, rfl, hi, his⟩ := List.map_eq_cons_iff.1 hd.symm
    rw [List.flatten_cons, List.map_append, h.command hi.symm, List.foldl_cons]
    exact ih (hready i (by simp) c h) his.symm fun j hj => hready j (List.mem_cons_of_mem i hj)

/-! ### SETBRIGHTNESS, FILLDISPLAY and CLEARDISPLAY -/

/-- The level of a SETBRIGHTNESS word is the word's operand. -/
theorem reqK_of_decode_setBrightness {w : RequestWord} {level : Byte} (hd : decode (.request w) = .instr (.setBrightness level)) :
    reqK w = level := by
  obtain hr | ⟨op, ho⟩ := decode_request_cases hd
  · cases hr
  · cases op <;> cases ho
    rfl

/-- Settles O42, by `runs_accepted` and the one command the request's two bytes make. -/
theorem brightnessEmitsTwoCommandBytes : Obligations.BrightnessEmitsTwoCommandBytes := by
  intro s w rest more level hs hi hp hd hact hans hlost hparser
  obtain rfl := reqK_of_decode_setBrightness hd
  have hready : s.ctl.Ready := ⟨hlost, hparser⟩
  have hctl : s.ctl.afterAll (answeredOk (brightnessTxns (reqK w))) = { s.ctl with contrast := .known (reqK w) } :=
    hready.command (bytes := [0x81#8, reqK w]) (i := .setContrast (reqK w)) rfl []
  rw [runs_accepted (op := .setBrightness) (n := 2) hs hi hp hd (.inr hact) rfl rfl hans, requestTxns, hctl]
  rfl

/-- Settles O43, by `runs_accepted` and the one command without operands that either request sends. -/
theorem bypassRequestsForceThePanel : Obligations.BypassRequestsForceThePanel := by
  intro s w rest more hs hi hp hact hans hlost hparser
  have hready : s.ctl.Ready := ⟨hlost, hparser⟩
  have hbypass : ∀ (op : DeviceOp) (b : Byte) (i : Instr), (∀ t, requestTxns op t = [.cmd b]) →
      commandShape b = some (.op0 i) → decode (.request w) = .instr (op.instr w) →
      runs 3 s = .next { onOk op w { s with
        port := rest, req := w, trace := s.trace ++ [⟨.command, b, .ok⟩], ctl := Controller.effect i s.ctl,
        answers := more, draws := s.draws + 1 } with status := Status.pack 0#16 op.code Status.OK } := by
    intro op b i htxns hshape hd
    rw [runs_accepted (n := 1) hs hi hp hd (.inr hact) (htxns _) rfl hans, hready.op0 hshape]
    rfl
  exact ⟨hbypass .fillDisplay _ _ (fun _ => rfl) commandShape_pFillDisplayCmd,
    hbypass .clearDisplay _ _ (fun _ => rfl) commandShape_pClearDisplayCmd⟩

/-! ### INIT -/

/-- The instructions of INIT's fourteen commands (30_encoding.md R80). -/
def initInstrs : List Instr :=
  [.displayOff, .setMemoryAddressingMode 0x00#8, .setContrast 0x10#8, .setSegmentRemap, .setMultiplexRatio 0x3F#8,
   .setComScanRemapped, .setDisplayOffset 0x00#8, .setClockDivide 0x80#8, .setPrechargePeriod 0x22#8, .setComPins 0x12#8,
   .setVcomhDeselect 0x20#8, .resumeFromRam, .normalDisplay, .displayOn]

/-- INIT's commands decode to their instructions. -/
theorem decode_initCommands : initCommands.map decodeCommand = initInstrs.map .instr := rfl

/-- A ready controller stays ready through each of INIT's commands. -/
theorem initInstrs_ready : ∀ i ∈ initInstrs, ∀ c : Controller, c.Ready → (Controller.effect i c).Ready := by
  intro i hi c h
  simp only [initInstrs, List.mem_cons, List.not_mem_nil, or_false] at hi
  rcases hi with rfl | rfl | rfl | rfl | rfl | rfl | rfl | rfl | rfl | rfl | rfl | rfl | rfl | rfl
  all_goals exact ⟨h.notLost, h.idle⟩

/-- What INIT makes of a controller that listens (44_controller_receiver.md R214 to R220). -/
def Controller.configured (c : Controller) : Controller :=
  { c with
    dispOn := .known .on, mode := .known .horizontal, contrast := .known 0x10#8, segRemap := .known .set,
    mux := .known 0x3F#8, comRemap := .known .set, offset := .known 0x00#8, clkdiv := .known 0x80#8,
    precharge := .known 0x22#8, compins := .known 0x12#8, vcomh := .known 0x20#8, entire := .known .ram,
    invert := .known .normal }

/-- The effects of INIT's commands one after the other. ENTIRE is known to be RAM whatever it was: a forced-off one is UNKNOWN
from `0xAE` on, which `0xA4` resumes from (R214, R220). -/
theorem Controller.foldl_initInstrs (c : Controller) :
    initInstrs.foldl (fun d i => Controller.effect i d) c = c.configured := by
  cases c with
  | mk ram col page cs ce ps pe mode contrast dispOn entire =>
    cases entire with
    | unknown => rfl
    | known e => cases e <;> rfl

/-- Settles O40, by `runs_accepted` and the fourteen commands that INIT's bytes make. -/
theorem initConfiguresTheController : Obligations.InitConfiguresTheController := by
  intro s w rest more hs hi hp hd hans hlost hparser
  have hready : s.ctl.Ready := ⟨hlost, hparser⟩
  have hbytes : initTxns = initCommands.flatten.map .cmd := rfl
  have hctl : s.ctl.afterAll (answeredOk initTxns) = s.ctl.configured := by
    rw [hbytes, hready.commands decode_initCommands initInstrs_ready, Controller.foldl_initInstrs]
  rw [runs_accepted (op := .init) (n := 22) hs hi hp hd (.inl rfl) rfl rfl hans, requestTxns, hctl]
  rfl

/-! ### DISPLAY -/

/-- A controller whose window is the whole panel, in horizontal mode, after the first `n` bytes of `fb` (44_controller_receiver.md
R218, R225). -/
def Controller.filled (c : Controller) (fb : List Byte) (n : Nat) : Controller :=
  { c with
    ram := (fb.take n).map .known ++ c.ram.drop n, col := .known (n % 128), page := .known (n / 128 % 8),
    cs := .known 0, ce := .known 127, ps := .known 0, pe := .known 7 }

/-- The two window commands of DISPLAY select the whole panel, the pointer at its start. -/
theorem Controller.afterAll_windowTxns {c : Controller} (h : c.Ready) (ts : List BusByte) (fb : List Byte) :
    c.afterAll (answeredOk (windowTxns ++ ts)) = (c.filled fb 0).afterAll (answeredOk ts) := by
  have hcolumn : (Controller.effect (.setColumnAddress 0x00#8 0x7F#8) c).Ready := ⟨h.notLost, h.idle⟩
  have hfirst := h.command (bytes := [0x21#8, 0x00#8, 0x7F#8]) (i := .setColumnAddress 0x00#8 0x7F#8) rfl
    ([0x22#8, 0x00#8, 0x07#8].map .cmd ++ ts)
  have hsecond := hcolumn.command (bytes := [0x22#8, 0x00#8, 0x07#8]) (i := .setPageAddress 0x00#8 0x07#8) rfl ts
  exact hfirst.trans hsecond

/-- A list over which another is being copied, one element further. -/
theorem set_map_take_append_drop {α β : Type} (f : α → β) {l : List α} {m : List β} {n : Nat} {v : α} (hv : l[n]? = some v)
    (hn : n < m.length) : ((l.take n).map f ++ m.drop n).set n (f v) = (l.take (n + 1)).map f ++ m.drop (n + 1) := by
  have hlen : ((l.take n).map f).length = n := by
    rw [List.length_map, List.length_take_of_le (List.getElem?_eq_some_iff.1 hv).1.le]
  rw [List.set_append_right _ _ hlen.le, hlen, Nat.sub_self, List.drop_eq_getElem_cons hn, List.set_cons_zero,
    List.take_add_one, hv, Option.toList_some, List.map_append, List.append_assoc]
  rfl

/-- One byte of FB received at its place. -/
theorem Controller.filled_after {c : Controller} (h : c.Ready) (hm : c.mode = .known .horizontal) (hram : c.ram.length = 1024)
    {fb : List Byte} {n : Nat} {v : Byte} (hv : fb[n]? = some v) (hn : n < 1024) :
    (c.filled fb n).after ⟨.data, v, .ok⟩ = c.filled fb (n + 1) := by
  rw [Controller.after_data (c := c.filled fb n) h.notLost]
  have hstore : (c.filled fb n).receiveData v = (c.filled fb n).store v (n % 128) (n / 128 % 8) 0 127 0 7 := by
    simp [Controller.receiveData, Controller.filled, h.idle, hm]
  have hindex : ramIndex (n / 128 % 8) (n % 128) = n := by rw [ramIndex]; omega
  have hcol : (if n % 128 < 127 then n % 128 + 1 else 0) = (n + 1) % 128 := by split <;> omega
  have hpage : (if n % 128 < 127 then n / 128 % 8 else if n / 128 % 8 < 7 then n / 128 % 8 + 1 else 0) =
      (n + 1) / 128 % 8 := by
    split
    · omega
    · split <;> omega
  rw [hstore, Controller.store, hindex, hcol, hpage, Controller.filled, Controller.filled,
    ← set_map_take_append_drop Known.known hv (hram.symm ▸ hn)]

/-- The bytes of FB received one after the other. -/
theorem Controller.afterAll_data {c : Controller} (h : c.Ready) (hm : c.mode = .known .horizontal) (hram : c.ram.length = 1024)
    {fb : List Byte} (hfb : fb.length = 1024) {n : Nat} (hn : n ≤ 1024) :
    (c.filled fb 0).afterAll (answeredOk ((fb.take n).map .dat)) = c.filled fb n := by
  induction n with
  | zero => rfl
  | succ n ih =>
    have hlt : n < fb.length := by omega
    rw [List.take_succ_eq_append_getElem hlt, List.map_append, answeredOk_append, Controller.afterAll_append, ih (by omega)]
    exact Controller.filled_after h hm hram (List.getElem?_eq_getElem hlt) hn

/-- Settles O41, by `runs_accepted`, the two window commands and the bytes of FB one after the other. -/
theorem displayFillsTheControllersMemory : Obligations.DisplayFillsTheControllersMemory := by
  intro s w rest more hinv hs hi hp hd hact hans hlost hparser hmode
  have hready : s.ctl.Ready := ⟨hlost, hparser⟩
  have hfb := hinv.fbSize
  have hram := hinv.controller.ramSize
  have hctl : s.ctl.afterAll (answeredOk (displayTxns s.fb)) = { s.ctl with
      ram := s.fb.map .known, cs := .known 0, ce := .known 127, ps := .known 0, pe := .known 7,
      col := .known 0, page := .known 0 } := by
    have hdata := Controller.afterAll_data hready hmode hram hfb le_rfl
    rw [List.take_of_length_le hfb.le] at hdata
    rw [displayTxns, Controller.afterAll_windowTxns hready _ s.fb, hdata, Controller.filled, List.take_of_length_le hfb.le,
      List.drop_of_length_le hram.le, List.append_nil]
  have htrace : answeredOk (displayTxns s.fb) =
      [0x21#8, 0x00#8, 0x7F#8, 0x22#8, 0x00#8, 0x07#8].map (fun b => ⟨.command, b, .ok⟩) ++
        s.fb.map (fun b => ⟨.data, b, .ok⟩) := by
    rw [displayTxns, answeredOk_append, answeredOk, answeredOk, List.map_map]
    rfl
  have hlen : (displayTxns s.fb).length = 1030 := by rw [length_displayTxns, hfb]
  rw [runs_accepted (op := .display) (n := 1030) hs hi hp hd (.inr hact) rfl hlen hans, requestTxns, hctl, htrace, List.append_assoc]
  rfl

end Sys2Proof.Machine
end

section
/-! PROOFS. The statements about the controller: what it receives, what its commands and a data byte do to it, and the panel view (44_controller_receiver.md R210 to R226). -/
namespace Sys2Proof.Machine

/-! ### The controller and TRACE -/

/-- What a step does to TRACE, to the transactions still to be received and to the controller: the controller receives the
oldest of them, or the step appends to both lists what it puts on the bus. -/
theorem step_receiver {s t : State} (h : step s = .next t) :
    (∃ x, s.inbox = x :: t.inbox ∧ t.trace = s.trace ∧ t.ctl = s.ctl.after x) ∨
    (∃ ts, t.trace = s.trace ++ ts ∧ t.inbox = s.inbox ++ ts ∧ t.ctl = s.ctl) := by
  cases step_cases h with
  | receive x rest hi => subst t; exact .inl ⟨x, hi, rfl, rfl⟩
  | idle | raster | raised | started => subst t; exact .inr ⟨[], by simp⟩
  | more op k b => subst t; exact .inr ⟨[b.answered s.nextAnswer], rfl, rfl, rfl⟩
  | last op k b =>
    obtain ⟨_, _, _, _, _, he⟩ := onOk_frame op s.req (s.busWrite b)
    subst t; rw [he]; exact .inr ⟨[b.answered s.nextAnswer], rfl, rfl, rfl⟩
  | failed op k b =>
    obtain ⟨_, _, _, _, _, he⟩ := onFail_frame op (s.busWrite b)
    subst t; rw [he]; exact .inr ⟨[b.answered s.nextAnswer], rfl, rfl, rfl⟩
  | past op k =>
    obtain ⟨_, _, _, _, _, he⟩ := onOk_frame op s.req s
    subst t; rw [he]; exact .inr ⟨[], by simp⟩

/-- One transaction more. -/
theorem controllerOf_concat (got : List Txn) (x : Txn) : controllerOf (got ++ [x]) = (controllerOf got).after x :=
  Controller.afterAll_append Controller.powerUp got [x]

/-- Settles O56, by `step_receiver`: a reception moves the oldest transaction to the received ones, and what is put on the bus
is still to be received. -/
theorem controllerIsAFunctionOfTheTrace : Obligations.ControllerIsAFunctionOfTheTrace := by
  rintro s t ⟨got, htrace, hctl⟩ h
  obtain ⟨x, hinbox, ht, hc⟩ | ⟨ts, ht, hinbox, hc⟩ := step_receiver h
  · refine ⟨got ++ [x], ?_, ?_⟩
    · rw [ht, htrace, hinbox, List.append_assoc, List.singleton_append]
    · rw [hc, hctl, controllerOf_concat]
  · refine ⟨got, ?_, hc.trans hctl⟩
    rw [ht, htrace, hinbox, List.append_assoc]

/-! ### LOST -/

/-- A LOST controller stays as it is whatever it receives (R212, R213, R218, R222). -/
theorem Controller.Inv.after_of_lost {c : Controller} (h : c.Inv) (hl : c.lost = true) (x : Txn) : c.after x = c := by
  obtain ⟨r, b, a⟩ := x
  cases a with
  | ok => exact Controller.after_lost hl r b
  | fail => rw [Controller.after_fail, h.lostKnowsNothing hl]

/-- Settles O51: a step changes the controller by a received transaction only. -/
theorem lostStaysLost : Obligations.LostStaysLost := by
  refine ⟨fun s t hinv hl h => ?_, fun i s hi hl => ?_⟩
  · obtain ⟨x, -, -, hc⟩ | ⟨_, -, -, hc⟩ := step_receiver h
    · rw [hc, hinv.controller.after_of_lost hl]
    · exact hc
  · rw [exec_effect hi, State.control_of_lost _ hl]

/-! ### Power-up and the open command bytes -/

/-- Settles O3: power-up is what reset gives the controller, and every field of it is written out. -/
theorem controllerPowersUpUnknown : Obligations.ControllerPowersUpUnknown := by
  refine ⟨rfl, State.afterReset_ctl, rfl, rfl, fun i => ?_, rfl, rfl, rfl, rfl, rfl, rfl, rfl, rfl⟩
  rw [Controller.powerUp, List.getD_eq_getElem?_getD, List.getElem?_replicate]
  split <;> rfl

/-- A first byte of the fixed table is neither of the open bytes. -/
theorem ne_open_of_mem_fixedTable {b : Byte} (h : b ∈ fixedTable.map Prod.fst) :
    b ≠ pFillDisplayCmd ∧ b ≠ pClearDisplayCmd := by
  obtain ⟨p, hp, rfl⟩ := List.mem_map.1 h
  have hlisted : fixedShape p.1 ≠ none := fun hn => bne_iff_ne.1 (List.lookup_eq_none_iff.1 hn p hp) rfl
  exact ⟨fun he => hlisted (he ▸ fixedShape_pFillDisplayCmd), fun he => hlisted (he ▸ fixedShape_pClearDisplayCmd)⟩

/-- Settles O11, by the choice of the open bytes among the bytes outside the fixed table. -/
theorem openCommandBytesAreDistinct : Obligations.OpenCommandBytesAreDistinct :=
  ⟨pClearDisplayCmd_ne.symm, fun _ hb => ne_open_of_mem_fixedTable hb,
    decode_command_of_shape commandShape_pFillDisplayCmd [], decode_command_of_shape commandShape_pClearDisplayCmd []⟩

/-! ### The reception of a byte -/

/-- A controller row does its effect to a controller that is not LOST, and nothing else. -/
theorem exec_of_not_lost {i : Instr} {s : State} {c : Controller} (hi : i.isRequest = false) (hl : s.ctl.lost = false)
    (hc : Controller.effect i s.ctl = c) : exec i s = .next { s with ctl := c } := by
  rw [exec_effect hi, State.control_of_not_lost _ hl, hc]

/-- A step whose reception makes the controller `c`. -/
theorem step_of_after {s : State} {x : Txn} {rest : List Txn} {c : Controller} (hi : s.inbox = x :: rest)
    (hc : s.ctl.after x = c) : step s = .next { s with inbox := rest, ctl := c } := by
  rw [step_receive hi, hc]

/-- A step whose reception is the effect of a controller row on `c` runs that row. -/
theorem step_of_after_effect {s : State} {x : Txn} {rest : List Txn} {i : Instr} {c : Controller} (hi : s.inbox = x :: rest)
    (hreq : i.isRequest = false) (hl : c.lost = false) (hc : s.ctl.after x = Controller.effect i c) :
    step s = exec i { s with inbox := rest, ctl := c } := by
  rw [step_of_after hi hc, exec_of_not_lost hreq hl rfl]

/-- Settles O15, by the case of the reception that each clause names. -/
theorem stepReceivesTheOldestTransaction : Obligations.StepReceivesTheOldestTransaction := by
  intro s b rest
  refine ⟨fun hi hl => step_of_after hi (Controller.after_lost hl .command b),
    fun hi hl => step_of_after hi (Controller.after_lost hl .data b),
    fun hi hl => step_of_after_effect hi rfl hl (Controller.after_data hl b), fun hi hl => ⟨?_, ?_, ?_, ?_, ?_⟩⟩
  · exact fun hp ho => step_of_after hi (Controller.after_unknown hl hp ho)
  · exact fun i hp ho hd => step_of_after_effect hi (isRequest_of_decodeCommand hd) hl (Controller.after_single hl hp ho hd)
  · exact fun n hp ho => step_of_after hi (Controller.after_first hl hp ho)
  · exact fun op n got hp hn => step_of_after hi (Controller.after_operand hl hp hn)
  · exact fun op n got i hp hn hd =>
      step_of_after_effect hi (isRequest_of_decodeCommand hd) hl (Controller.after_last hl hp hn hd)

/-- Settles O16, by `Controller.after_fail`. -/
theorem failedTransactionLosesTheController : Obligations.FailedTransactionLosesTheController :=
  fun s r b _ hi => step_of_after hi (Controller.after_fail s.ctl r b)

/-! ### The commands and the data byte -/

/-- Settles O47: each command's effect is on its one field. -/
theorem recordingCommandsRecord : Obligations.RecordingCommandsRecord := by
  intro s v hl
  have hrecords : ∀ i : Instr, i.isRequest = false → exec i s = .next { s with ctl := Controller.effect i s.ctl } :=
    fun _ hi => exec_of_not_lost hi hl rfl
  exact ⟨hrecords _ rfl, hrecords _ rfl, hrecords _ rfl, hrecords _ rfl, hrecords _ rfl, hrecords _ rfl, hrecords _ rfl,
    hrecords _ rfl, hrecords _ rfl⟩

theorem Controller.setDisplay_of_forcedOff {c : Controller} (h : c.entire = .known .forcedOff) (v : OnOff) :
    c.setDisplay v = { c with dispOn := .known v, entire := .unknown } := by
  rw [Controller.setDisplay, if_pos h]

theorem Controller.setDisplay_of_ne {c : Controller} (h : c.entire ≠ .known .forcedOff) (v : OnOff) :
    c.setDisplay v = { c with dispOn := .known v } := by
  rw [Controller.setDisplay, if_neg h]

theorem Controller.resume_of_forcedOff {c : Controller} (h : c.entire = .known .forcedOff) :
    c.resume = { c with entire := .unknown } := by
  rw [Controller.resume, if_pos h]

theorem Controller.resume_of_ne {c : Controller} (h : c.entire ≠ .known .forcedOff) :
    c.resume = { c with entire := .known .ram } := by
  rw [Controller.resume, if_neg h]

/-- Settles O48, by the effect of each command, ENTIRE forced off or not. -/
theorem displayModeCommandsAct : Obligations.DisplayModeCommandsAct := by
  intro s m hl
  refine ⟨fun h => ⟨?_, ?_, ?_⟩, fun h => ⟨?_, ?_, ?_⟩, exec_of_not_lost rfl hl rfl,
    exec_of_not_lost rfl hl rfl, fun hm => ?_⟩
  · exact exec_of_not_lost rfl hl (Controller.setDisplay_of_ne h .off)
  · exact exec_of_not_lost rfl hl (Controller.setDisplay_of_ne h .on)
  · exact exec_of_not_lost rfl hl (Controller.resume_of_ne h)
  · exact exec_of_not_lost rfl hl (Controller.setDisplay_of_forcedOff h .off)
  · exact exec_of_not_lost rfl hl (Controller.setDisplay_of_forcedOff h .on)
  · exact exec_of_not_lost rfl hl (Controller.resume_of_forcedOff h)
  · exact exec_of_not_lost rfl hl (if_neg hm)

/-- Settles O49, by the effect of each command, the window inside the panel or not. -/
theorem windowAndBypassCommandsAct : Obligations.WindowAndBypassCommandsAct := by
  intro s a b hl
  refine ⟨fun hab hb => ?_, fun hout => ?_, fun hab hb => ?_, fun hout => ?_, exec_of_not_lost rfl hl rfl,
    exec_of_not_lost rfl hl rfl⟩
  · exact exec_of_not_lost rfl hl (if_pos ⟨hab, hb⟩)
  · exact exec_of_not_lost rfl hl (if_neg (by omega))
  · exact exec_of_not_lost rfl hl (if_pos ⟨hab, hb⟩)
  · exact exec_of_not_lost rfl hl (if_neg (by omega))

/-- A data byte that parser, mode, pointers and windows settle is stored (R218). -/
theorem Controller.receiveData_of_known {c : Controller} {col page cs ce ps pe : Nat} (hparser : c.parser = .idle)
    (hmode : c.mode = .known .horizontal) (hcol : c.col = .known col) (hpage : c.page = .known page) (hcs : c.cs = .known cs)
    (hce : c.ce = .known ce) (hps : c.ps = .known ps) (hpe : c.pe = .known pe) (v : Byte) :
    c.receiveData v = c.store v col page cs ce ps pe := by
  rw [Controller.receiveData, hparser, hmode, hcol, hpage, hcs, hce, hps, hpe]

/-- A data byte that they do not settle loses the controller (R218). -/
theorem Controller.receiveData_of_unknown {c : Controller}
    (h : c.parser ≠ .idle ∨ c.mode = .unknown ∨ c.col = .unknown ∨ c.page = .unknown ∨ c.cs = .unknown ∨
      c.ce = .unknown ∨ c.ps = .unknown ∨ c.pe = .unknown) (v : Byte) : c.receiveData v = Controller.gone := by
  unfold Controller.receiveData
  split
  · next hparser hmode hcol hpage hcs hce hps hpe => simp [hparser, hmode, hcol, hpage, hcs, hce, hps, hpe] at h
  · rfl

/-- Settles O50, by the two cases of `Controller.receiveData`. -/
theorem dataByteStoresAndAdvances : Obligations.DataByteStoresAndAdvances := by
  intro s v hl
  constructor
  · intro col page cs ce ps pe hparser hmode hcol hpage hcs hce hps hpe
    exact exec_of_not_lost rfl hl (Controller.receiveData_of_known hparser hmode hcol hpage hcs hce hps hpe v)
  · exact fun h => exec_of_not_lost rfl hl (Controller.receiveData_of_unknown h v)

/-! ### The panel view -/

/-- The view where LOST, DISP_ON or ENTIRE leaves it unknown (R226). -/
theorem Controller.visible_of_unknown {c : Controller} (h : c.lost = true ∨ c.dispOn = .unknown ∨ c.entire = .unknown)
    (x y : Int) : c.visible x y = .unknown := by
  unfold Controller.visible
  split
  · rfl
  · next hl =>
    obtain h | h | h := h
    · exact absurd h hl
    · rw [h]
    · rw [h]
      cases c.dispOn <;> rfl

/-- The view of a display that shows its memory (R226). -/
theorem Controller.visible_ram {c : Controller} (hl : c.lost = false) (hd : c.dispOn = .known .on) (he : c.entire = .known .ram)
    (hn : c.invert = .known .normal) {x y : Int} {v : Known Byte} (hv : c.ram[pixelIndex x y]? = some v) :
    c.visible x y = v.bit (pixelBit y) := by
  simp [Controller.visible, hl, hd, he, hn, hv]

/-- Settles O52, by the cases of the view; the pixels of a display memory that holds FB are those of FB. -/
theorem panelShowsTheFrameBuffer : Obligations.PanelShowsTheFrameBuffer := by
  intro c fb x y hpanel
  have ⟨hx, _, hy, _⟩ := hpanel
  refine ⟨fun hlen hram hl hd he hn => ?_, fun v hl hd he hn => ?_, fun hu => Controller.visible_of_unknown hu x y,
    fun hl hd he => ?_, fun hl hd he => ?_, fun hl hd he => ?_, fun hl hd he hn => ?_⟩
  · have hindex : pixelIndex x y < fb.length := hlen ▸ pixelIndex_lt hpanel
    have hbyte : c.ram[pixelIndex x y]? = some (.known (Fb.byteAt fb (pixelIndex x y))) := by
      simp [hram, Fb.byteAt, hindex]
    exact Controller.visible_ram hl hd he hn hbyte
  · rw [← pixelIndex_eq_toNat hx hy, ← pixelBit_eq_toNat hy]
    exact ⟨Controller.visible_ram hl hd he hn, Controller.visible_ram hl hd he hn⟩
  · cases hu : c.entire with
    | unknown => exact absurd hu he
    | known e => simp [Controller.visible, hl, hd, hu]
  · simp [Controller.visible, hl, hd, he]
  · simp [Controller.visible, hl, hd, he]
  · simp [Controller.visible, hl, hd, he, hn]

end Sys2Proof.Machine
end

section
/-! PROOFS. The statements about what an illegal word does and what an idle machine keeps (60_exceptions.md R241, R244, R257). -/
namespace Sys2Proof.Machine

/-- A raise by an idle machine changes STATUS only (60_exceptions.md R241). -/
theorem State.raise_of_idle {s : State} (hs : s.seq = .idle) (op code : Byte) :
    s.raise op code = { s with status := BitVec.ofNat 32 (op.toNat * 256 + code.toNat) } := by
  rw [State.raise, State.complete, Status.pack_eq, ← hs]
  simp

/-- Settles O13: the listed words are those the decoder rejects (`illegalRequestWordsAreTheListedOnes`), and the acceptance of
a rejected word is a raise. -/
theorem stepReportsIllegalRequests : Obligations.StepReportsIllegalRequests := by
  intro s w rest hi hs hp hw
  obtain ⟨r, hreject⟩ := (illegalRequestWordsAreTheListedOnes w).2 hw
  obtain ⟨i, hread, -⟩ | ⟨-, -, hstep⟩ := step_accept hi hs hp
  · exact nomatch hread.symm.trans hreject
  · have hop : (reqOp w).toNat = fieldOf w 0 8 := toNat_slice w 0 8
    rw [hstep, State.raise_of_idle (s := { s with port := rest }) hs, hop]
    rfl

/-- Settles O17, by the fetch of an idle machine. -/
theorem idleMachineHoldsItsState : Obligations.IdleMachineHoldsItsState := fun _ hi hs hp =>
  step_of_done (fetch_idle hi hs hp)

end Sys2Proof.Machine
end

section
/-! PROOFS. While no transaction fails, the controller stays in step with the block (70_reset_and_hazards.md R279; 43_device_protocol.md R191; 44_controller_receiver.md R218). -/
namespace Sys2Proof.Machine

/-! ### A listening controller through one command -/

theorem Controller.Listens.ready {c : Controller} {p : PState} (h : c.Listens p) : c.Ready := ⟨h.notLost, h.idle⟩

/-- A controller that listens through a command without operands listens after it. -/
theorem Controller.Listens.op0 {c : Controller} {p : PState} (h : c.Listens p) {b : Byte} {i : Instr}
    (hs : commandShape b = some (.op0 i)) (hi : (Controller.effect i c).Listens p) :
    (c.afterAll (answeredOk [.cmd b])).Listens p := by
  rw [h.ready.op0 hs]
  exact hi

/-! ### A listening controller through a data stream -/

/-- A controller that can store a data byte: ready, in horizontal mode, its pointers and windows known (R218). -/
structure Controller.Streams (c : Controller) : Prop where
  ready : c.Ready
  mode : c.mode = .known .horizontal
  pointers : ∃ col page cs ce ps pe, c.col = .known col ∧ c.page = .known page ∧ c.cs = .known cs ∧ c.ce = .known ce ∧
    c.ps = .known ps ∧ c.pe = .known pe

/-- A data byte is stored, and the pointer it moves stays known. -/
theorem Controller.Streams.after_data {c : Controller} (h : c.Streams) (v : Byte) : (c.after ⟨.data, v, .ok⟩).Streams := by
  obtain ⟨hready, hmode, col, page, cs, ce, ps, pe, hcol, hpage, hcs, hce, hps, hpe⟩ := h
  rw [Controller.after_data hready.notLost, Controller.receiveData_of_known hready.idle hmode hcol hpage hcs hce hps hpe]
  exact ⟨⟨hready.notLost, hready.idle⟩, hmode, _, _, cs, ce, ps, pe, rfl, rfl, hcs, hce, hps, hpe⟩

/-- So is every byte of a stream. -/
theorem Controller.Streams.afterAll_data {c : Controller} (h : c.Streams) (bytes : List Byte) :
    (c.afterAll (answeredOk (bytes.map .dat))).Streams := by
  induction bytes generalizing c with
  | nil => exact h
  | cons v bytes ih => exact ih (h.after_data v)

/-- DISPLAY's windows make a ready controller in horizontal mode one that takes FB. -/
theorem Controller.streams_displayTxns {c : Controller} (h : c.Ready) (hm : c.mode = .known .horizontal) (fb : List Byte) :
    (c.afterAll (answeredOk (displayTxns fb))).Streams := by
  have hwindow : (c.filled fb 0).Streams := ⟨⟨h.notLost, h.idle⟩, hm, _, _, _, _, _, _, rfl, rfl, rfl, rfl, rfl, rfl⟩
  rw [displayTxns, Controller.afterAll_windowTxns h _ fb]
  exact hwindow.afterAll_data fb

/-! ### A listening controller through a whole request -/

/-- INIT's bytes configure a ready controller (43_device_protocol.md R176). -/
theorem Controller.Ready.afterAll_initTxns {c : Controller} (h : c.Ready) :
    c.afterAll (answeredOk initTxns) = c.configured :=
  (h.commands decode_initCommands initInstrs_ready).trans (Controller.foldl_initInstrs c)

/-- A request answered `ok` throughout brings a controller that listens to one that listens in the PSTATE the request leaves. -/
theorem Controller.Listens.afterAll_requestTxns {c : Controller} {s : State} {op : DeviceOp} (h : c.Listens s.pstate)
    (ha : op ≠ .init → s.pstate = .active) (req : RequestWord) :
    (c.afterAll (answeredOk (requestTxns op s))).Listens (onOk op req s).pstate := by
  have hmode : op ≠ .init → c.mode = .known .horizontal := fun ho => h.horizontal (ha ho)
  cases op with
  | init =>
    rw [requestTxns, h.ready.afterAll_initTxns]
    exact ⟨h.notLost, h.idle, fun _ => rfl⟩
  | display =>
    have hstreams := Controller.streams_displayTxns h.ready (hmode nofun) s.fb
    exact ⟨hstreams.ready.notLost, hstreams.ready.idle, fun _ => hstreams.mode⟩
  | setBrightness =>
    rw [requestTxns, brightnessTxns, h.ready.op1 (commandShape_of_fixed rfl)]
    exact ⟨h.notLost, h.idle, h.horizontal⟩
  | fillDisplay => exact h.op0 commandShape_pFillDisplayCmd ⟨h.notLost, h.idle, h.horizontal⟩
  | clearDisplay => exact h.op0 commandShape_pClearDisplayCmd ⟨h.notLost, h.idle, h.horizontal⟩

/-! ### The bus invariant by SEQ -/

theorem State.busInv_iff_of_idle {s : State} (hs : s.seq = .idle) :
    s.BusInv ↔ (allOk s.trace = true → (controllerOf s.trace).Listens s.pstate) := by
  rw [State.BusInv, hs]

theorem State.busInv_iff_of_busy {s : State} {op : DeviceOp} {k : Nat} (hs : s.seq = .busy op k) :
    s.BusInv ↔ (allOk s.trace = true → ∃ c : Controller, c.Listens s.pstate ∧
      controllerOf s.trace = c.afterAll (answeredOk ((requestTxns op s).take k))) := by
  rw [State.BusInv, hs]
  rfl

theorem allOk_concat {ts : List Txn} {x : Txn} : allOk (ts ++ [x]) = true ↔ allOk ts = true ∧ x.answer = .ok := by
  simp [allOk]

/-- The next bus write, if answered `ok`, brings the controller one transaction further. -/
theorem State.BusInv.afterWrite {s : State} (h : s.BusInv) {op : DeviceOp} {k : Nat} {b : BusByte} (hs : s.seq = .busy op k)
    (hb : (requestTxns op s)[k]? = some b) (hok : allOk (s.busWrite b).trace = true) :
    ∃ c : Controller, c.Listens s.pstate ∧
      controllerOf (s.busWrite b).trace = c.afterAll (answeredOk ((requestTxns op s).take (k + 1))) := by
  rw [State.busWrite_trace, allOk_concat] at hok
  obtain ⟨htrace, hanswer⟩ := hok
  obtain ⟨c, hc, hctl⟩ := (State.busInv_iff_of_busy hs).1 h htrace
  have hanswer : s.nextAnswer = .ok := hanswer
  refine ⟨c, hc, ?_⟩
  rw [State.busWrite_trace, hanswer, controllerOf_concat, hctl, List.take_add_one, hb, answeredOk_append,
    Controller.afterAll_append]
  rfl

/-- Settles O57, by the cases of a step: a request starts from a controller that listens, each write answered `ok` brings it one
transaction further, and the whole request brings it to one that listens. -/
theorem soundTransportKeepsTheControllerListening : Obligations.SoundTransportKeepsTheControllerListening := by
  intro s t hinv hbus h
  cases step_cases h with
  | receive x rest hi ht => exact ht ▸ hbus
  | idle hi hs hp ht => exact ht ▸ hbus
  | raster w rest i fb hi hs hp hd hr hl ht =>
    subst t
    exact (State.busInv_iff_of_idle rfl).2 ((State.busInv_iff_of_idle hs).1 hbus)
  | raised w r rest op code hi hs hp hc ht =>
    subst t
    exact (State.busInv_iff_of_idle rfl).2 ((State.busInv_iff_of_idle hs).1 hbus)
  | started w rest op hi hs hp ha hd ht =>
    subst t
    exact (State.busInv_iff_of_busy rfl).2 fun hok => ⟨_, (State.busInv_iff_of_idle hs).1 hbus hok, rfl⟩
  | more op k b hi hs hb ha hk ht =>
    subst t
    have htxns : requestTxns op { s.busWrite b with seq := .busy op (k + 1) } = requestTxns op s := requestTxns_congr op rfl rfl
    exact (State.busInv_iff_of_busy rfl).2 fun hok => htxns ▸ hbus.afterWrite hs hb hok
  | last op k b hi hs hb ha hk ht =>
    subst t
    have htrace : (onOk op s.req (s.busWrite b)).trace = (s.busWrite b).trace := by
      obtain ⟨_, _, _, _, _, he⟩ := onOk_frame op s.req (s.busWrite b)
      rw [he]
    have htxns : requestTxns op (s.busWrite b) = requestTxns op s := requestTxns_congr op rfl rfl
    refine (State.busInv_iff_of_idle rfl).2 fun hok => ?_
    rw [State.complete_trace, htrace] at hok ⊢
    obtain ⟨c, hc, hctl⟩ := hbus.afterWrite hs hb hok
    rw [hctl, List.take_of_length_le hk.le, ← htxns]
    exact Controller.Listens.afterAll_requestTxns (s := s.busWrite b) hc (hinv.active op k hs) s.req
  | failed op k b hi hs hb ha ht =>
    subst t
    have htrace : (onFail op (s.busWrite b)).trace = s.trace ++ [b.answered .fail] := by
      obtain ⟨_, _, _, _, _, he⟩ := onFail_frame op (s.busWrite b)
      rw [he, ← ha]
      rfl
    refine (State.busInv_iff_of_idle rfl).2 fun hok => ?_
    rw [State.complete_trace, htrace, allOk_concat] at hok
    exact nomatch hok.2
  | past op k hi hs hb ht => exact absurd (hinv.position op k hs) (Nat.not_lt.2 hb)

end Sys2Proof.Machine
end

section
/-! PROOFS. The statements about reset and the host's steps (70_reset_and_hazards.md R270 to R277). -/
namespace Sys2Proof.Machine

/-! ### The host's steps -/

/-- Settles O4, by the equation of each host step and by what a write to SRCMEM or GLYPH makes of every read. -/
theorem hostStepsTouchOnlyTheirOwn : Obligations.HostStepsTouchOnlyTheirOwn := by
  refine ⟨fun _ _ => rfl, fun _ => ⟨rfl, rfl⟩, fun _ _ => rfl, fun s a b hmem hs => ?_, fun s ch g hlen hs hmin hmax => ?_,
    fun s op k a b ch g hs => ?_⟩
  · exact ⟨Memory.write s.mem a b, if_pos hs, Memory.wf_write hmem a b, fun x => Memory.read_write hmem a x b⟩
  · exact ⟨glyphWrite s.glyph ch g, if_pos hs, (length_glyphWrite s.glyph ch g).trans hlen, glyphAt_glyphWrite hlen hmin hmax g⟩
  · have hbusy : s.seq ≠ .idle := fun hidle => nomatch hs.symm.trans hidle
    exact ⟨if_neg hbusy, if_neg hbusy⟩

/-! ### The invariants -/

/-- The invariant of the block's reset values, whatever sound contents FB, GLYPH and SRCMEM have. -/
theorem State.Inv.of_reset {fb : List Byte} {glyph : List Glyph} {mem : List Host.Cell} (hfb : fb.length = 1024)
    (hglyph : glyph.length = 96) (hmem : Memory.wf mem = true) (req : RequestWord) (port : List RequestWord)
    (answers : List Answer) (draws resets : Nat) :
    ({ State.reset with fb := fb, glyph := glyph, mem := mem, req := req, port := port, answers := answers, draws := draws,
                        resets := resets } : State).Inv := by
  have hcode : (Status.code 0#32).toNat ≤ 3 := by decide
  have hinfo : Status.info 0#32 = 0#16 := rfl
  exact {
    fbSize := hfb
    glyphSize := hglyph
    memWf := hmem
    position := nofun
    active := nofun
    code := hcode
    info := fun hne => absurd hinfo hne
    activeShadows := nofun
    uninitShadows := fun _ => ⟨rfl, rfl, rfl⟩
    controller := Controller.powerUp_inv }

/-- Settles O54, by the field each host step writes, and by `State.Inv.of_reset`. -/
theorem hostStepsKeepTheInvariant : Obligations.HostStepsKeepTheInvariant := by
  intro s h hinv
  cases h with
  | present w => exact { hinv with }
  | writeSource a b =>
    rw [hostStep]
    split
    · exact { hinv with memWf := Memory.wf_write hinv.memWf a b }
    · exact hinv
  | writeGlyph ch g =>
    rw [hostStep]
    split
    · exact { hinv with glyphSize := (length_glyphWrite s.glyph ch g).trans hinv.glyphSize }
    · exact hinv
  | readStatus => exact hinv
  | writeStatus v => exact hinv
  | reset => exact State.Inv.of_reset (length_fbResetDraw _) hinv.glyphSize hinv.memWf _ _ _ _ _

/-- Settles O55: after reset nothing has been received, and the controller at power-up listens. -/
theorem invariantsHoldAtReset : Obligations.InvariantsHoldAtReset := by
  have hglyph : State.reset.glyph.length = 96 := by rw [State.reset_glyph, List.length_map, List.length_range]
  refine ⟨?_, ⟨[], rfl, rfl⟩, ?_⟩
  · exact State.Inv.of_reset (length_fbResetDraw 0) hglyph Memory.wf_reset _ _ _ _ _
  · exact (State.busInv_iff_of_idle rfl).2 fun _ => ⟨rfl, rfl, nofun⟩

/-! ### The values after reset -/

/-- Settles O1: with nothing presented the first step keeps the state, and the acceptance of a word overwrites REQ. -/
theorem resetStateIsAsListed : Obligations.ResetStateIsAsListed := by
  refine ⟨rfl, rfl, rfl, rfl, rfl, rfl, rfl, rfl, ?_, fun i hi => ?_, rfl, fun v => ?_, fun v w i hd => ?_⟩
  · rw [State.reset_fb, length_fbResetDraw]
  · rw [State.reset_fb, Fb.byteAt_fbResetDraw 0 hi]
  · exact idleMachineHoldsItsState _ rfl rfl rfl
  · rw [stepRunsTheAcceptedRequest { State.reset with req := v, port := [w] } w [] i rfl rfl rfl hd,
      stepRunsTheAcceptedRequest { State.reset with port := [w] } w [] i rfl rfl rfl hd]

/-- Settles O2, by the fields of `State.afterReset` and the draw of FB. -/
theorem resetEventLeavesTheListedState : Obligations.ResetEventLeavesTheListedState := by
  intro s
  have hfb : (hostStep .reset s).fb = fbResetDraw (s.resets + 1) := State.afterReset_fb s
  refine ⟨?_, rfl, rfl, rfl, ?_, fun i hi => ?_⟩
  · simp only [hostStep, State.afterReset]
  · rw [hfb, length_fbResetDraw]
  · rw [hfb, Fb.byteAt_fbResetDraw _ hi]

end Sys2Proof.Machine
end
